-- ==== Sys2Proof/Word.lean ====
section
/-! DEFINITION. The word types of the core (spec/10_state.md R10, R13, R17; spec/30_encoding.md R61). All values are
unsigned (spec/00_scope.md R6); arithmetic on these types wraps, as "all registers wrap modulo 256" (43_alu R115). -/

namespace Sys2Proof

/-- A byte: a general register, a timer, a byte of memory, an immediate `nn`. -/
abbrev Byte := BitVec 8

/-- A 16-bit word: `pc`, `I`, a call-stack slot, an instruction word. -/
abbrev Word := BitVec 16

/-- A 4-bit field of the instruction word that names a general register; every value names one (R10). -/
abbrev Reg := BitVec 4

/-- A 4-bit field used as a number: the row count `n`, or the unexamined nibble of classes 5 and 9. -/
abbrev Nibble := BitVec 4

/-- The 12-bit address immediate `nnn`. -/
abbrev Addr := BitVec 12

/-- A key value, `0x0` to `0xF` (47_keypad_timers R152). -/
abbrev Key := BitVec 4

end Sys2Proof
end

