-- ==== Sys2Proof/Config.lean ====
section
/-! DEFINITION. What an implementation fixes (spec/00_scope.md R5) and what the environment chooses
(spec/60_exceptions.md R175, spec/93_implementation_defined.md U8 to U11): the parameters and the free values. -/

namespace Sys2Proof

/-- The parameters of rule R5 that the spec keeps as arguments of a model. They are fixed for a machine: `State` carries
them, and no step changes them. The fixed ones (16 registers, `PROG_BASE`, `FONT_STRIDE`, ...) are written where they are used. -/
structure Params where
  /-- `MEM_SIZE`: addresses are `0 .. memSize - 1`; `4096 <= MEM_SIZE <= 65536` (`Params.wf`). -/
  memSize : Nat
  /-- `STACK_LIMIT`: the depth at which 2NNN is fatal, 15 or 16 (`Params.wf`). At most the 16 slots that exist. -/
  stackLimit : Fin 17
  /-- `FONT`: 16 glyphs of 5 bytes; no rule of the core depends on the bytes (R47). -/
  font : Vector (Vector Byte 5) 16
  /-- `STRICT_LOW_NIBBLE`: whether 0x5XYN and 0x9XYN with `N != 0` are unimplemented (30_encoding R68). -/
  strictLowNibble : Bool
deriving DecidableEq, Repr

/-- The default `FONT` of 20_memory R47. PRESUMED: the spec itself marks the table "from general knowledge, not in
source" (G1). Unsafe for a claim that reads glyph bytes; log 2. -/
def Config.font : Vector (Vector Byte 5) 16 :=
  #v[#v[0xF0, 0x90, 0x90, 0x90, 0xF0], #v[0x20, 0x60, 0x20, 0x20, 0x70],
     #v[0xF0, 0x10, 0xF0, 0x80, 0xF0], #v[0xF0, 0x10, 0xF0, 0x10, 0xF0],
     #v[0x90, 0x90, 0xF0, 0x10, 0x10], #v[0xF0, 0x80, 0xF0, 0x10, 0xF0],
     #v[0xF0, 0x80, 0xF0, 0x90, 0xF0], #v[0xF0, 0x10, 0x20, 0x40, 0x40],
     #v[0xF0, 0x90, 0xF0, 0x90, 0xF0], #v[0xF0, 0x90, 0xF0, 0x10, 0xF0],
     #v[0xF0, 0x90, 0xF0, 0x90, 0x90], #v[0xE0, 0x90, 0xE0, 0x90, 0xE0],
     #v[0xF0, 0x80, 0x80, 0x80, 0xF0], #v[0xE0, 0x90, 0x90, 0x90, 0xE0],
     #v[0xF0, 0x80, 0xF0, 0x80, 0xF0], #v[0xF0, 0x80, 0xF0, 0x80, 0x80]]

/-- The default parameters of R5. DESIGN CHOICE: the model's reset state carries the spec's defaults; statements hold for
all parameters (log 1). -/
def Config.params : Params :=
  { memSize := 4096, stackLimit := 15, font := Config.font, strictLowNibble := false }

/-- What the host does to the core before a step (70_reset_and_hazards R190 to R196). -/
inductive HostAct where
  | none                        -- nothing
  | reset                       -- the reset input (R190)
  | load (image : List Byte)    -- the ROM load (R195)
  | run                         -- the `Run` input (R192)
deriving DecidableEq, Repr, Inhabited

/-- What `env.WaitKey()` has to say when it is asked (47_keypad_timers R152, 60_exceptions R178). -/
inductive KeyAnswer where
  | pending          -- no notification and no quit so far: the wait goes on
  | key (k : Key)    -- the oldest queued notification
  | quit             -- the quit signal fires first (R155)
deriving DecidableEq, Repr, Inhabited

/-- The environment's inputs to ONE step: plain data in `State`, drawn anew by every step (`Config.inputs`). Nothing
constrains them (U8 to U11: "any value"), so a statement over every state holds for every draw. -/
structure Inputs where
  /-- The host's act before this step. -/
  host : HostAct
  /-- `env.QuitRequested()`, sampled at the start of a cycle (10_state R34). -/
  quit : Bool
  /-- `env.RandomByte()`, for CXNN (R179). -/
  random : Byte
  /-- The display's answer to `env.Sprite`; `none` while it has not answered (R177). -/
  collided : Option Bool
  /-- The notifications `env.DrainKeys()` collects, for EX9E and EXA1 (R178). -/
  drained : List Key
  /-- The answer of `env.WaitKey()`, for FX0A (R178). -/
  waitKey : KeyAnswer
  /-- R155: the unspecified `V[x]` after an FX0A ended by quit. -/
  quitV : Byte
  /-- R155: whether `pc` is then the address plus 2 or the address. -/
  quitPcNext : Bool
  /-- R155: whether `DT` has then taken this cycle's decrement. -/
  quitTickDT : Bool
  /-- R155: whether `ST` has then taken this cycle's decrement. -/
  quitTickST : Bool
deriving DecidableEq, Repr, Inhabited

/-- FREE VALUES: the inputs of the step that follows the `n`-th draw. No body: nothing in Lean can evaluate it (log 4). -/
opaque Config.inputs : Nat → Inputs

end Sys2Proof
end

