-- ==== Sys2Proof/Syntax.lean ====
section
/-! DEFINITION. The 34 instructions of spec/30_encoding.md R66, one constructor per row of spec/opcode_table.json, named
by the row's pattern (the normative mnemonic, R66). Operands are the fields of R61. -/

namespace Sys2Proof

/-- An instruction. The last argument of `op5XY0` and `op9XY0` is `w[3:0]`, which the decoder does not examine (R68) and no
meaning reads; it is kept so that decoding loses no bit of the word (log 15). -/
inductive Instr where
  | op00E0
  | op00EE
  | op1NNN (nnn : Addr)
  | op2NNN (nnn : Addr)
  | op3XNN (x : Reg) (nn : Byte)
  | op4XNN (x : Reg) (nn : Byte)
  | op5XY0 (x y : Reg) (ignored : Nibble)
  | op6XNN (x : Reg) (nn : Byte)
  | op7XNN (x : Reg) (nn : Byte)
  | op8XY0 (x y : Reg)
  | op8XY1 (x y : Reg)
  | op8XY2 (x y : Reg)
  | op8XY3 (x y : Reg)
  | op8XY4 (x y : Reg)
  | op8XY5 (x y : Reg)
  | op8XY6 (x y : Reg)
  | op8XY7 (x y : Reg)
  | op8XYE (x y : Reg)
  | op9XY0 (x y : Reg) (ignored : Nibble)
  | opANNN (nnn : Addr)
  | opBNNN (nnn : Addr)
  | opCXNN (x : Reg) (nn : Byte)
  | opDXYN (x y : Reg) (n : Nibble)
  | opEX9E (x : Reg)
  | opEXA1 (x : Reg)
  | opFX07 (x : Reg)
  | opFX0A (x : Reg)
  | opFX15 (x : Reg)
  | opFX18 (x : Reg)
  | opFX1E (x : Reg)
  | opFX29 (x : Reg)
  | opFX33 (x : Reg)
  | opFX55 (x : Reg)
  | opFX65 (x : Reg)
deriving DecidableEq, Repr

end Sys2Proof
end

