-- ==== Sys2Proof/WellFormed.lean ====
section
/-! DEFINITION. Well-formedness: of an instruction (the canonical encoding, spec/30_encoding.md R68) and of the
parameters (spec/00_scope.md R5). Field ranges need no check: the operand types are as wide as the fields. -/

namespace Sys2Proof

/-- An instruction an assembler may emit: "The canonical encoding has `n = 0` and an assembler must emit 0" (R68). The
others decode and execute too, unless `STRICT_LOW_NIBBLE` is set. -/
def Instr.wf : Instr → Bool
  | .op5XY0 _ _ ignored => ignored == 0
  | .op9XY0 _ _ ignored => ignored == 0
  | _ => true

/-- Parameters the spec allows (R5): `4096 <= MEM_SIZE <= 65536`, `STACK_LIMIT` in {15, 16}. -/
def Params.wf (p : Params) : Bool :=
  decide (4096 ≤ p.memSize) && decide (p.memSize ≤ 65536) && (p.stackLimit == 15 || p.stackLimit == 16)

end Sys2Proof
end

