-- ==== Sys2Proof/Decode.lean ====
section
/-! DEFINITION. The decoder and the encoder (spec/30_encoding.md R61 to R68). -/

namespace Sys2Proof

/-- `class = w[15:12]` (R61). -/
def opClass (w : Word) : BitVec 4 := w.extractLsb' 12 4

/-- `x = w[11:8]` (R61). -/
def fieldX (w : Word) : Reg := w.extractLsb' 8 4

/-- `y = w[7:4]` (R61). -/
def fieldY (w : Word) : Reg := w.extractLsb' 4 4

/-- `n = w[3:0]` (R61). -/
def fieldN (w : Word) : Nibble := w.extractLsb' 0 4

/-- `nn = w[7:0]` (R61). -/
def fieldNN (w : Word) : Byte := w.extractLsb' 0 8

/-- `nnn = w[11:0]` (R61). -/
def fieldNNN (w : Word) : Addr := w.extractLsb' 0 12

/-- What the decoder says of a word: an instruction, or the word rejected by name (R67). -/
inductive Decoded where
  | instr (i : Instr)
  | unimplementedOpcode (w : Word)
deriving DecidableEq, Repr

/-- Class 0: the whole word is compared (R65). -/
def decode0 (w : Word) : Decoded :=
  if w = 0x00E0 then .instr .op00E0
  else if w = 0x00EE then .instr .op00EE
  else .unimplementedOpcode w

/-- Class 8: the sub-opcode is `w[3:0]` (R64, R65). -/
def decode8 (w : Word) : Decoded :=
  let x := fieldX w
  let y := fieldY w
  match (fieldN w).toNat with
  | 0x0 => .instr (.op8XY0 x y)
  | 0x1 => .instr (.op8XY1 x y)
  | 0x2 => .instr (.op8XY2 x y)
  | 0x3 => .instr (.op8XY3 x y)
  | 0x4 => .instr (.op8XY4 x y)
  | 0x5 => .instr (.op8XY5 x y)
  | 0x6 => .instr (.op8XY6 x y)
  | 0x7 => .instr (.op8XY7 x y)
  | 0xE => .instr (.op8XYE x y)
  | _ => .unimplementedOpcode w

/-- Class E: the sub-opcode is `w[7:0]` (R64, R65). -/
def decodeE (w : Word) : Decoded :=
  match (fieldNN w).toNat with
  | 0x9E => .instr (.opEX9E (fieldX w))
  | 0xA1 => .instr (.opEXA1 (fieldX w))
  | _ => .unimplementedOpcode w

/-- Class F: the sub-opcode is `w[7:0]` (R64, R65). -/
def decodeF (w : Word) : Decoded :=
  let x := fieldX w
  match (fieldNN w).toNat with
  | 0x07 => .instr (.opFX07 x)
  | 0x0A => .instr (.opFX0A x)
  | 0x15 => .instr (.opFX15 x)
  | 0x18 => .instr (.opFX18 x)
  | 0x1E => .instr (.opFX1E x)
  | 0x29 => .instr (.opFX29 x)
  | 0x33 => .instr (.opFX33 x)
  | 0x55 => .instr (.opFX55 x)
  | 0x65 => .instr (.opFX65 x)
  | _ => .unimplementedOpcode w

/-- Classes 5 and 9: decoded on the class alone, unless `STRICT_LOW_NIBBLE` asks for `w[3:0] = 0` (R68). -/
def decodeLoose (strict : Bool) (w : Word) (i : Instr) : Decoded :=
  if strict && fieldN w != 0 then .unimplementedOpcode w else .instr i

/-- `Decode(w)` of R64, a total function on all 65536 words. `strict` is the parameter `STRICT_LOW_NIBBLE`. -/
def decode (strict : Bool) (w : Word) : Decoded :=
  match (opClass w).toNat with
  | 0x0 => decode0 w
  | 0x1 => .instr (.op1NNN (fieldNNN w))
  | 0x2 => .instr (.op2NNN (fieldNNN w))
  | 0x3 => .instr (.op3XNN (fieldX w) (fieldNN w))
  | 0x4 => .instr (.op4XNN (fieldX w) (fieldNN w))
  | 0x5 => decodeLoose strict w (.op5XY0 (fieldX w) (fieldY w) (fieldN w))
  | 0x6 => .instr (.op6XNN (fieldX w) (fieldNN w))
  | 0x7 => .instr (.op7XNN (fieldX w) (fieldNN w))
  | 0x8 => decode8 w
  | 0x9 => decodeLoose strict w (.op9XY0 (fieldX w) (fieldY w) (fieldN w))
  | 0xA => .instr (.opANNN (fieldNNN w))
  | 0xB => .instr (.opBNNN (fieldNNN w))
  | 0xC => .instr (.opCXNN (fieldX w) (fieldNN w))
  | 0xD => .instr (.opDXYN (fieldX w) (fieldY w) (fieldN w))
  | 0xE => decodeE w
  | _ => decodeF w

/-- Format `A`: class, `nnn` (R62). -/
def formatA (c : BitVec 4) (nnn : Addr) : Word := c ++ nnn

/-- Format `XI`: class, `x`, `nn` (R62). Format `XS` is the same with a fixed `nn`. -/
def formatXI (c : BitVec 4) (x : Reg) (nn : Byte) : Word := (c ++ x : BitVec 8) ++ nn

/-- Formats `XY` and `XYN`: class, `x`, `y`, `n` (R62). -/
def formatXYN (c : BitVec 4) (x y : Reg) (n : Nibble) : Word := ((c ++ x : BitVec 8) ++ y : BitVec 12) ++ n

/-- The word of an instruction, from the patterns of R66 and the formats of R62. -/
def encode : Instr → Word
  | .op00E0 => 0x00E0
  | .op00EE => 0x00EE
  | .op1NNN nnn => formatA 0x1 nnn
  | .op2NNN nnn => formatA 0x2 nnn
  | .op3XNN x nn => formatXI 0x3 x nn
  | .op4XNN x nn => formatXI 0x4 x nn
  | .op5XY0 x y ignored => formatXYN 0x5 x y ignored
  | .op6XNN x nn => formatXI 0x6 x nn
  | .op7XNN x nn => formatXI 0x7 x nn
  | .op8XY0 x y => formatXYN 0x8 x y 0x0
  | .op8XY1 x y => formatXYN 0x8 x y 0x1
  | .op8XY2 x y => formatXYN 0x8 x y 0x2
  | .op8XY3 x y => formatXYN 0x8 x y 0x3
  | .op8XY4 x y => formatXYN 0x8 x y 0x4
  | .op8XY5 x y => formatXYN 0x8 x y 0x5
  | .op8XY6 x y => formatXYN 0x8 x y 0x6
  | .op8XY7 x y => formatXYN 0x8 x y 0x7
  | .op8XYE x y => formatXYN 0x8 x y 0xE
  | .op9XY0 x y ignored => formatXYN 0x9 x y ignored
  | .opANNN nnn => formatA 0xA nnn
  | .opBNNN nnn => formatA 0xB nnn
  | .opCXNN x nn => formatXI 0xC x nn
  | .opDXYN x y n => formatXYN 0xD x y n
  | .opEX9E x => formatXI 0xE x 0x9E
  | .opEXA1 x => formatXI 0xE x 0xA1
  | .opFX07 x => formatXI 0xF x 0x07
  | .opFX0A x => formatXI 0xF x 0x0A
  | .opFX15 x => formatXI 0xF x 0x15
  | .opFX18 x => formatXI 0xF x 0x18
  | .opFX1E x => formatXI 0xF x 0x1E
  | .opFX29 x => formatXI 0xF x 0x29
  | .opFX33 x => formatXI 0xF x 0x33
  | .opFX55 x => formatXI 0xF x 0x55
  | .opFX65 x => formatXI 0xF x 0x65

/-- The two bytes of a word as memory holds them, the high byte at the lower address (20_memory R42). -/
def highByte (w : Word) : Byte := w.extractLsb' 8 8

/-- The byte at the higher address (20_memory R42). -/
def lowByte (w : Word) : Byte := w.extractLsb' 0 8

/-- The word of two bytes, big-endian (20_memory R42, 10_state R31). -/
def wordOfBytes (high low : Byte) : Word := high ++ low

/-- The instruction an image's bytes begin with, and the bytes after it (R60: every instruction is exactly one word of two
bytes). `none` where fewer than two bytes are left: there is then no word to decode. -/
def decodeBytes (strict : Bool) : List Byte → Option (Decoded × List Byte)
  | high :: low :: rest => some (decode strict (wordOfBytes high low), rest)
  | _ => none

/-- The instruction, if the decoder gives one. -/
def Decoded.instr? : Decoded → Option Instr
  | .instr i => some i
  | .unimplementedOpcode _ => none

/-- The word a row of spec/opcode_table.json numbers: the low `nbits` of `w`, the bits above them 0. -/
def tableWord (nbits w : Nat) : Word := BitVec.ofNat 16 (w % 2 ^ nbits)

/-- The decoder on a word numbered as spec/opcode_table.json numbers it, laid out as memory holds it, with the default
`STRICT_LOW_NIBBLE`. -/
def decodeTableWord (nbits w : Nat) : Option Instr :=
  match decodeBytes false [highByte (tableWord nbits w), lowByte (tableWord nbits w)] with
  | some (d, _) => d.instr?
  | none => none

end Sys2Proof
end

