-- ==== Sys2Proof/Machine/State.lean ====
section
/-! DEFINITION. The state of the machine as plain data (spec/10_state.md R10 to R22, spec/20_memory.md R40), the reasons a
step can stop, and the state after reset (10_state R35). -/

namespace Sys2Proof.Machine

/-- The four run states (R26); `RunState.code` gives their encoding (R21). -/
inductive RunState where
  | idle
  | running
  | halted
  | faulted
deriving DecidableEq, Repr

/-- The six fatal conditions (60_exceptions R165). Each is TAKEN: the machine goes to a next state that holds the fault
record (R170); none of them is a fault or a refusal of the model (log 6). -/
inductive Condition where
  | unimplementedOpcode
  | stackOverflow
  | stackUnderflow
  | fetchMisaligned
  | fetchOutOfBounds
  | memoryBounds
deriving DecidableEq, Repr

/-- Where the machine stands in a cycle. The model's own field: the spec's "the wait is the instruction not having
completed, with `pc` still at the FX0A word" (R22). DESIGN CHOICE, log 10 and log 12. -/
inductive Phase where
  | between     -- before the fetch of a cycle
  | keyWait     -- inside FX0A, no key has come (47_keypad_timers R154)
  | drawWait    -- inside DXYN, the Sprite request is sent and not answered (46_random_display R144)
deriving DecidableEq, Repr

/-- A transaction the core begins with a collaborator (60_exceptions R175), as `State.sent` records it. The answers come
through `State.inputs`. -/
inductive Transaction where
  | clear                                            -- `env.Clear()` (R176)
  | sprite (cx cy : Byte) (bytes : List Byte)        -- `env.Sprite(cx, cy, bytes)` (R177)
  | drainKeys                                        -- `env.DrainKeys()` (R178)
  | waitKey                                          -- `env.WaitKey()` (R178)
  | randomByte                                       -- `env.RandomByte()` (R179)
  | loadError                                        -- a ROM load that does not fit, reported to the host (R195)
deriving DecidableEq, Repr

/-- Why a step can stop with a fault. -/
inductive Fault where
  /-- Raised by `step` alone, when the parameters are outside the range of rule R5 (`Params.wf`): the spec describes no
  such machine. Safe: the model stops. No instruction's meaning raises it; State.reset does not reach it (log 17). -/
  | badParams
deriving DecidableEq, Repr

/-- Why an instruction can have no meaning. -/
inductive Refusal where
  /-- Answered by `exec` alone, for an instruction that has no meaning yet, by its mnemonic. Safe: the model stops. Every
  instruction has its meaning, so no arm answers it. -/
  | notModelled (mnemonic : String)
deriving DecidableEq, Repr

/-- The state. The field names of the spec's registers are the spec's own. -/
structure State where
  /-- The implementation parameters (00_scope R5); no step changes them (log 1). -/
  params : Params
  /-- `V[0] .. V[15]`, 8 bits each; `VF` is `V[15]` (R10, R12). -/
  V : Vector Byte 16
  /-- The address register, 16 bits (R17). -/
  I : Word
  /-- The program counter, 16 bits (R13). -/
  pc : Word
  /-- The stack depth, `0 .. 16` (R18, R21; log 20). -/
  SP : Fin 17
  /-- The 16 call-stack slots (R18). -/
  stack : Vector Word 16
  /-- The delay timer (R20). -/
  DT : Byte
  /-- The sound timer (R20). -/
  ST : Byte
  /-- `run_state` (R21, R26). -/
  runState : RunState
  /-- `fault_code`, 3 bits: 0 or the code of R165 (R21). -/
  faultCode : BitVec 3
  /-- `fault_pc` (R21, R170). -/
  faultPc : Word
  /-- `fault_word` (R21, R170). -/
  faultWord : Word
  /-- The memory: the bytes that differ from the reset contents, addresses strictly rising (`Memory.wf`; log 19). -/
  mem : List Host.Cell
  /-- The model's own: where in a cycle the machine stands (log 10, log 12). -/
  phase : Phase
  /-- The model's own: the environment's inputs to the next step, free values (log 4). -/
  inputs : Inputs
  /-- The model's own: the counter the free values are drawn by (log 4). -/
  draws : Nat
  /-- The model's own: the transactions begun since reset, oldest first (log 13). -/
  sent : List Transaction
deriving DecidableEq, Repr

/-- The inputs State.reset carries. DESIGN CHOICE: the environment's, not the core's; no statement rests on them, and every
step draws new ones (log 5). -/
def Inputs.quiet : Inputs :=
  { host := .none, quit := false, random := 0, collided := some false, drained := [], waitKey := .key 0,
    quitV := 0, quitPcNext := false, quitTickDT := false, quitTickST := false }

/-- The state after reset with given parameters (R35). The stack slots' 0 is a DESIGN CHOICE: the spec leaves them
unspecified and no rule reads them before they are written (log 3). The last four fields are the model's own (log 5). -/
def State.resetWith (p : Params) : State :=
  { params := p
    V := Vector.replicate 16 0
    I := 0x0000
    pc := 0x0200
    SP := 0
    stack := Vector.replicate 16 0
    DT := 0
    ST := 0
    runState := .idle
    faultCode := 0
    faultPc := 0
    faultWord := 0
    mem := []
    phase := .between
    inputs := Inputs.quiet
    draws := 0
    sent := [] }

/-- The machine right after reset, with the default parameters (R35, R5). -/
def State.reset : State := State.resetWith Config.params

/-- The three outcomes of a step, for this machine. -/
abbrev Result := Host.Outcome State Fault Refusal

end Sys2Proof.Machine
end

