-- ==== Sys2Proof/Machine/Ops.lean ====
section
/-! DEFINITION. The named operations over registers, memory, the call stack and `pc`, and fault entry
(spec/10_state.md, spec/20_memory.md, spec/60_exceptions.md). Every read and write of a piece of state goes through here. -/

namespace Sys2Proof.Machine

/-! ### Encodings of the control state (10_state R21) -/

/-- The 2-bit encoding of `run_state` (R21). -/
def RunState.code : RunState → BitVec 2
  | .idle => 0
  | .running => 1
  | .halted => 2
  | .faulted => 3

/-- `fault_code` of each condition (60_exceptions R165); 0 means "no fault". -/
def Condition.code : Condition → BitVec 3
  | .unimplementedOpcode => 1
  | .stackOverflow => 2
  | .stackUnderflow => 3
  | .fetchMisaligned => 4
  | .fetchOutOfBounds => 5
  | .memoryBounds => 6

/-! ### General registers (10_state R10) -/

/-- Every 4-bit index names a register (R10). -/
theorem regIndex_lt (x : Reg) : x.toNat < 16 := x.isLt

/-- `VF` is `V[15]` (R12). -/
def VF : Reg := 0xF

/-- `V[x]`. -/
def State.getV (s : State) (x : Reg) : Byte := s.V[x.toNat]'(regIndex_lt x)

/-- `V[x] <- b`. -/
def State.setV (s : State) (x : Reg) (b : Byte) : State :=
  { s with V := s.V.set x.toNat b (regIndex_lt x) }

/-! ### The program counter and `I` (10_state R13 to R17) -/

/-- `pc <- target`. -/
def State.jump (s : State) (target : Word) : State := { s with pc := target }

/-- `next`: `pc <- (pc + 2) mod 65536` (00_scope R7). -/
def State.advance (s : State) : State := s.jump (s.pc + 2)

/-- `skip` where the condition holds, else `next` (00_scope R7, 10_state R14). -/
def State.skipIf (s : State) (c : Bool) : State := if c then s.jump (s.pc + 4) else s.advance

/-- `I <- v`. -/
def State.setI (s : State) (v : Word) : State := { s with I := v }

/-! ### Memory (20_memory) -/

/-- The byte at `a` after reset: `FONT[digit][r]` at `digit*10 + r`, 0x00 elsewhere (10_state R35, 20_memory R46, R47). It is
also what an address that `State.mem` does not list reads as (log 19). -/
def resetByte (p : Params) (a : Nat) : Byte :=
  if h : a / 10 < 16 ∧ a % 10 < 5 then (p.font[a / 10]'h.1)[a % 10]'h.2 else 0

/-- The byte a memory holds at `a`. -/
def Memory.read (p : Params) : List Host.Cell → Nat → Byte
  | [], a => resetByte p a
  | (a', b') :: m, a => if a = a' then b' else Memory.read p m a

/-- A memory without any entry for `a`. -/
def Memory.erase (a : Nat) : List Host.Cell → List Host.Cell
  | [] => []
  | (a', b') :: m => if a = a' then Memory.erase a m else (a', b') :: Memory.erase a m

/-- A memory with an entry for `a` put before the first address above `a`. -/
def Memory.insert (a : Nat) (b : Byte) : List Host.Cell → List Host.Cell
  | [] => [(a, b)]
  | (a', b') :: m => if a < a' then (a, b) :: (a', b') :: m else (a', b') :: Memory.insert a b m

/-- The memory after `b` is written at `a`: no entry for `a` where it reads as `b` unlisted. -/
def Memory.write (p : Params) (a : Nat) (b : Byte) (m : List Host.Cell) : List Host.Cell :=
  if b = resetByte p a then Memory.erase a m else Memory.insert a b (Memory.erase a m)

/-- The memory after bytes are written at `a`, `a + 1`, ..., in ascending order (20_memory R45). -/
def Memory.writeList (p : Params) : Nat → List Byte → List Host.Cell → List Host.Cell
  | _, [], m => m
  | a, b :: bs, m => Memory.writeList p (a + 1) bs (Memory.write p a b m)

/-- The `n` bytes at `a`, `a + 1`, ..., in ascending order (20_memory R45). -/
def Memory.readList (p : Params) (m : List Host.Cell) : Nat → Nat → List Byte
  | _, 0 => []
  | a, n + 1 => Memory.read p m a :: Memory.readList p m (a + 1) n

/-- The first listed address is above `a`. -/
def Memory.startsAbove (a : Nat) : List Host.Cell → Bool
  | [] => true
  | (a', _) :: _ => decide (a < a')

/-- The canonical form: addresses strictly rising and below `MEM_SIZE`, no entry equal to what its address reads as unlisted. -/
def Memory.wf (p : Params) : List Host.Cell → Bool
  | [] => true
  | (a, b) :: m => decide (a < p.memSize) && decide (b ≠ resetByte p a) && Memory.startsAbove a m && Memory.wf p m

/-- The byte of memory at `a`: `MemRead(a, 1)` for an address below `MEM_SIZE` (00_scope R7). -/
def State.readByte (s : State) (a : Nat) : Byte := Memory.read s.params s.mem a

/-- Writes bytes at `a`, `a + 1`, ...: `MemWrite` of each, for addresses below `MEM_SIZE` (00_scope R7). -/
def State.writeBytes (s : State) (a : Nat) (bs : List Byte) : State :=
  { s with mem := Memory.writeList s.params a bs s.mem }

/-! ### The call stack (10_state R18, R19) -/

/-- `Push(v)`; `none` where it raises `StackOverflow` (R19). -/
def State.push (s : State) (v : Word) : Option State :=
  if h : s.SP < s.params.stackLimit then
    some { s with
      stack := s.stack.set s.SP.val v (Nat.lt_of_lt_of_le (Fin.lt_def.mp h) (Nat.le_of_lt_succ s.params.stackLimit.isLt))
      SP := ⟨s.SP.val + 1, Nat.lt_of_le_of_lt (Fin.lt_def.mp h) s.params.stackLimit.isLt⟩ }
  else none

/-- `Pop()`: the value and the state after it; `none` where it raises `StackUnderflow` (R19). The slot keeps its content. -/
def State.pop (s : State) : Option (Word × State) :=
  if h : 0 < s.SP.val then
    some (s.stack[s.SP.val - 1]'(Nat.lt_of_lt_of_le (Nat.sub_one_lt_of_lt h) (Nat.le_of_lt_succ s.SP.isLt)),
      { s with SP := ⟨s.SP.val - 1, Nat.lt_of_le_of_lt (Nat.sub_le _ _) s.SP.isLt⟩ })
  else none

/-! ### Timers (10_state R20, R33) -/

/-- `DT <- b`. -/
def State.setDT (s : State) (b : Byte) : State := { s with DT := b }

/-- `ST <- b`. -/
def State.setST (s : State) (b : Byte) : State := { s with ST := b }

/-- One decrement of a timer: "neither goes below 0 and neither wraps" (R33). -/
def tick (t : Byte) : Byte := if t = 0 then 0 else t - 1

/-- The decrement that closes a cycle: both timers (R33, D13). -/
def State.tickTimers (s : State) : State := (s.setDT (tick s.DT)).setST (tick s.ST)

/-! ### Transactions, phases, run states -/

/-- Records a transaction the core begins (60_exceptions R175). -/
def State.send (s : State) (t : Transaction) : State := { s with sent := s.sent ++ [t] }

/-- Moves to a phase of the cycle. -/
def State.setPhase (s : State) (ph : Phase) : State := { s with phase := ph }

/-- `run_state <- Halted`; nothing else changes (10_state R34). The cycle is over. -/
def State.halt (s : State) : State := { s with runState := .halted, phase := .between }

/-- Draws the environment's inputs to the next step (log 4). -/
def State.redraw (s : State) : State := { s with inputs := Config.inputs s.draws, draws := s.draws + 1 }

/-! ### Fault entry (60_exceptions R170)

There is no return from a fault and no trap-return instruction (R174): reset alone leaves `Faulted`. -/

/-- `raise F`: the state before the instruction, plus the fault record. `word` is the fetched word, or 0 when none was fetched. -/
def raise (c : Condition) (word : Word) (s : State) : State :=
  { s with faultCode := c.code, faultPc := s.pc, faultWord := word, runState := .faulted, phase := .between }

end Sys2Proof.Machine
end

