-- ==== Sys2Proof/Machine/Flags.lean ====
section
/-! DEFINITION. Every flag the spec computes (spec/10_state.md R12) and how it is stored. There is no flag register: the
only flag is `VF` = `V[15]`. -/

namespace Sys2Proof.Machine

/-- "A flag write always stores exactly 0 or 1" (R12). -/
def flagByte (c : Bool) : Byte := if c then 1 else 0

/-- `VF <- c`. -/
def State.setFlag (s : State) (c : Bool) : State := s.setV VF (flagByte c)

/-- 8XY4: the carry out of bit 7, `a + b > 255` (43_alu R109). -/
def carryOut (a b : Byte) : Bool := decide (a.toNat + b.toNat > 255)

/-- 8XY5 and 8XY7: no borrow in `a - b`, `a >= b` (R110, R113). -/
def noBorrow (a b : Byte) : Bool := decide (a.toNat ≥ b.toNat)

/-- 8XY6: bit 0 of the value to be shifted (R112). -/
def shiftedOutRight (b : Byte) : Bool := b.getLsbD 0

/-- 8XYE: bit 7 of the value to be shifted (R114). -/
def shiftedOutLeft (b : Byte) : Bool := b.getLsbD 7

/-- FX1E: the unwrapped sum exceeds the address-space size minus 1 (44_index R122). -/
def addressOverflow (p : Params) (sum : Nat) : Bool := decide (sum > p.memSize - 1)

/-- The result to `V[x]`, then the flag to `VF`, then `next`: with `x = 15` the flag remains (00_scope R8). -/
def State.resultThenFlag (s : State) (x : Reg) (result : Byte) (c : Bool) : State :=
  ((s.setV x result).setFlag c).advance

end Sys2Proof.Machine
end

