-- ==== Sys2Proof/Machine/Alu.lean ====
section
/-! DEFINITION. Register-register arithmetic and logic (spec/43_alu.md). Operands are read before any write; the flag, where
there is one, is written after the result (00_scope R8). -/

namespace Sys2Proof.Machine

/-- 8XY0: copy, no flag (R105). -/
def exec8XY0 (x y : Reg) (s : State) : Result := .next (s.setV x (s.getV y)).advance

/-- 8XY1: OR, no flag (R106). -/
def exec8XY1 (x y : Reg) (s : State) : Result := .next (s.setV x (s.getV x ||| s.getV y)).advance

/-- 8XY2: AND, no flag (R107). -/
def exec8XY2 (x y : Reg) (s : State) : Result := .next (s.setV x (s.getV x &&& s.getV y)).advance

/-- 8XY3: XOR, no flag (R108). -/
def exec8XY3 (x y : Reg) (s : State) : Result := .next (s.setV x (s.getV x ^^^ s.getV y)).advance

/-- 8XY4: add, `VF` = carry (R109). -/
def exec8XY4 (x y : Reg) (s : State) : Result :=
  .next (s.resultThenFlag x (s.getV x + s.getV y) (carryOut (s.getV x) (s.getV y)))

/-- 8XY5: subtract, `VF` = no borrow (R110). -/
def exec8XY5 (x y : Reg) (s : State) : Result :=
  .next (s.resultThenFlag x (s.getV x - s.getV y) (noBorrow (s.getV x) (s.getV y)))

/-- 8XY6: `V[y]` shifted right by one, `VF` = its bit 0 (R111, R112). -/
def exec8XY6 (x y : Reg) (s : State) : Result :=
  .next (s.resultThenFlag x (s.getV y >>> 1) (shiftedOutRight (s.getV y)))

/-- 8XY7: reverse subtract, `VF` = no borrow (R113). -/
def exec8XY7 (x y : Reg) (s : State) : Result :=
  .next (s.resultThenFlag x (s.getV y - s.getV x) (noBorrow (s.getV y) (s.getV x)))

/-- 8XYE: `V[y]` shifted left by one, `VF` = its bit 7 (R111, R114). -/
def exec8XYE (x y : Reg) (s : State) : Result :=
  .next (s.resultThenFlag x (s.getV y <<< 1) (shiftedOutLeft (s.getV y)))

end Sys2Proof.Machine
end

