-- ==== Sys2Proof/Machine/Operands.lean ====
section
/-! DEFINITION. Operand forms: zero-extended immediates (spec/30_encoding.md R63), the block at `I` (spec/20_memory.md
R49, R50), decimal digits (45_memory_transfer R130), register blocks (R132, R134), and the sensed keys (47 R152). -/

namespace Sys2Proof.Machine

/-- `zext_16(nnn)` (R63). -/
def zextAddr (nnn : Addr) : Word := nnn.setWidth 16

/-- `zext_16(v)` of a byte (00_scope R6). -/
def zextByte (b : Byte) : Word := b.setWidth 16

/-- A key value as a byte, `0x00 .. 0x0F` (47_keypad_timers R154). -/
def keyByte (k : Key) : Byte := k.setWidth 8

/-- `BlockCheck(len)` passes: `len = 0`, or the block `I .. I+len-1` is wholly below `MEM_SIZE`; no wrap (R49, R50). -/
def State.blockFits (s : State) (len : Nat) : Bool := decide (len = 0 ∨ s.I.toNat + len ≤ s.params.memSize)

/-- The `len` bytes at `I`, ascending (R45, R49). -/
def State.readBlock (s : State) (len : Nat) : List Byte := Memory.readList s.params s.mem s.I.toNat len

/-- Stores bytes at `I`, `I + 1`, ... (R45, R49). -/
def State.writeBlock (s : State) (bs : List Byte) : State := s.writeBytes s.I.toNat bs

/-- Hundreds, tens, ones, each in a whole byte (45_memory_transfer R130). -/
def bcdDigits (v : Byte) : List Byte :=
  [BitVec.ofNat 8 (v.toNat / 100), BitVec.ofNat 8 (v.toNat / 10 % 10), BitVec.ofNat 8 (v.toNat % 10)]

/-- How many registers a block instruction moves: `x + 1` (R132, R134). -/
def blockLen (x : Reg) : Nat := x.toNat + 1

/-- `V[0], ..., V[x]` in this order (R132). -/
def State.regBlock (s : State) (x : Reg) : List Byte := s.V.toList.take (blockLen x)

/-- `V[k] <- mem[I + k]` for `k = 0 .. x`; the registers above `x` are untouched (R134). -/
def State.loadRegs (s : State) (x : Reg) : State :=
  { s with V := Vector.ofFn fun k => if k.val ≤ x.toNat then s.readByte (s.I.toNat + k.val) else s.V[k.val] }

/-- The key named by `V[x]` is in the drained set; the whole byte is compared, so `0x10 .. 0xFF` names no key (R152, R150). -/
def State.keyPressed (s : State) (x : Reg) : Bool := s.inputs.drained.any fun k => keyByte k == s.getV x

end Sys2Proof.Machine
end

