-- ==== Sys2Proof/Machine/Display.lean ====
section
/-! DEFINITION. Display and random instructions (spec/46_random_display.md). The core's part is exact; the collaborator's
part is a request recorded in `State.sent` and an answer taken from `State.inputs`. -/

namespace Sys2Proof.Machine

/-- 00E0: exactly one `Clear`, no answer (R140). -/
def exec00E0 (s : State) : Result := .next (s.send .clear).advance

/-- CXNN: `V[x] <- r AND nn`, `r` the environment's byte (R142). -/
def execCXNN (x : Reg) (nn : Byte) (s : State) : Result :=
  .next ((s.send .randomByte).setV x (s.inputs.random &&& nn)).advance

/-- The request of DXYN: the two coordinates as full bytes and the `n` rows at `I` (R144). -/
def spriteRequest (x y : Reg) (n : Nibble) (s : State) : Transaction :=
  .sprite (s.getV x) (s.getV y) (s.readBlock n.toNat)

/-- The state once the request is sent: sent once, however long the answer takes (R177). -/
def spriteSent (x y : Reg) (n : Nibble) (s : State) : State :=
  if s.phase = .drawWait then s else s.send (spriteRequest x y n s)

/-- DXYN: the bounds check, the request, the wait for the answer, then `VF` (R144). While the display has not answered,
nothing else of the core changes (10_state R32; log 12). -/
def execDXYN (x y : Reg) (n : Nibble) (s : State) : Result :=
  .next (if s.blockFits n.toNat then
      match s.inputs.collided with
      | some c => (((spriteSent x y n s).setPhase .between).setFlag c).advance
      | none => (spriteSent x y n s).setPhase .drawWait
    else raise .memoryBounds (encode (.opDXYN x y n)) s)

end Sys2Proof.Machine
end

