-- ==== Sys2Proof/Machine/Flow.lean ====
section
/-! DEFINITION. Jumps, calls and returns (spec/40_flow.md). -/

namespace Sys2Proof.Machine

/-- 00EE: pop the stack into `pc`; `StackUnderflow` when it is empty (R80). -/
def exec00EE (s : State) : Result :=
  .next (match s.pop with
    | some (target, t) => t.jump target
    | none => raise .stackUnderflow (encode .op00EE) s)

/-- 1NNN: `pc <- zext_16(nnn)` (R81). -/
def exec1NNN (nnn : Addr) (s : State) : Result := .next (s.jump (zextAddr nnn))

/-- 2NNN: push `pc + 2`, `pc <- zext_16(nnn)`; `StackOverflow` when `SP >= STACK_LIMIT` (R82). -/
def exec2NNN (nnn : Addr) (s : State) : Result :=
  .next (match s.push (s.pc + 2) with
    | some t => t.jump (zextAddr nnn)
    | none => raise .stackOverflow (encode (.op2NNN nnn)) s)

/-- BNNN: `pc <- (zext_16(nnn) + zext_16(V[0])) mod 65536`, not reduced to 12 bits (R83). -/
def execBNNN (nnn : Addr) (s : State) : Result := .next (s.jump (zextAddr nnn + zextByte (s.getV 0)))

end Sys2Proof.Machine
end

