-- ==== Sys2Proof/Machine/Immediate.lean ====
section
/-! DEFINITION. Register-immediate instructions (spec/42_immediate.md). -/

namespace Sys2Proof.Machine

/-- 6XNN: `V[x] <- nn` (R100). -/
def exec6XNN (x : Reg) (nn : Byte) (s : State) : Result := .next (s.setV x nn).advance

/-- 7XNN: `V[x] <- (V[x] + nn) mod 256`, no flag (R101). -/
def exec7XNN (x : Reg) (nn : Byte) (s : State) : Result := .next (s.setV x (s.getV x + nn)).advance

end Sys2Proof.Machine
end

