-- ==== Sys2Proof/Machine/Index.lean ====
section
/-! DEFINITION. Address-register instructions (spec/44_index.md). None accesses memory; none can fault. -/

namespace Sys2Proof.Machine

/-- ANNN: `I <- zext_16(nnn)` (R120). -/
def execANNN (nnn : Addr) (s : State) : Result := .next (s.setI (zextAddr nnn)).advance

/-- The unwrapped sum of FX1E, `I + zext_16(V[x])` (R122). -/
def indexSum (s : State) (x : Reg) : Nat := s.I.toNat + (s.getV x).toNat

/-- FX1E: `I <- sum mod 65536`, `VF` = 1 if the unwrapped sum exceeds `MEM_SIZE - 1` (R122). -/
def execFX1E (x : Reg) (s : State) : Result :=
  .next ((s.setI (BitVec.ofNat 16 (indexSum s x))).setFlag (addressOverflow s.params (indexSum s x))).advance

/-- FX29: `I <- zext_16(V[x]) * 10`, the whole register (R124, D26). -/
def execFX29 (x : Reg) (s : State) : Result := .next (s.setI (zextByte (s.getV x) * 10)).advance

end Sys2Proof.Machine
end

