-- ==== Sys2Proof/Machine/Keypad.lean ====
section
/-! DEFINITION. Keypad and timer instructions (spec/47_keypad_timers.md). -/

namespace Sys2Proof.Machine

/-- EX9E: drain, then skip if the key `V[x]` was among the drained (R150). -/
def execEX9E (x : Reg) (s : State) : Result := .next ((s.send .drainKeys).skipIf (s.keyPressed x))

/-- EXA1: drain, then skip if the key `V[x]` was not among the drained (R151). -/
def execEXA1 (x : Reg) (s : State) : Result := .next ((s.send .drainKeys).skipIf (!s.keyPressed x))

/-- The state once `WaitKey` is begun: begun once, however long the wait (R154). -/
def keyAsked (s : State) : State := if s.phase = .keyWait then s else s.send .waitKey

/-- R155: what an FX0A ended by quit leaves. `V[x]`, whether `pc` has advanced, and whether each timer has taken this cycle's
decrement are free values of `State.inputs` (log 11); everything else is as before, and the core is `Halted`. -/
def keyQuit (x : Reg) (s : State) : State :=
  let t := s.setV x s.inputs.quitV
  let t := if s.inputs.quitPcNext then t.advance else t
  let t := if s.inputs.quitTickDT then t.setDT (tick t.DT) else t
  let t := if s.inputs.quitTickST then t.setST (tick t.ST) else t
  t.halt

/-- FX0A: the oldest key notification to `V[x]`, waiting for it; quit ends the wait (R154, R155). While it waits nothing
else of the core changes (log 10). -/
def execFX0A (x : Reg) (s : State) : Result :=
  .next (match s.inputs.waitKey with
    | .key k => (((keyAsked s).setPhase .between).setV x (keyByte k)).advance
    | .pending => (keyAsked s).setPhase .keyWait
    | .quit => keyQuit x (keyAsked s))

/-- FX07: `V[x] <- DT` (R157). -/
def execFX07 (x : Reg) (s : State) : Result := .next (s.setV x s.DT).advance

/-- FX15: `DT <- V[x]` (R158). -/
def execFX15 (x : Reg) (s : State) : Result := .next (s.setDT (s.getV x)).advance

/-- FX18: `ST <- V[x]` (R159). -/
def execFX18 (x : Reg) (s : State) : Result := .next (s.setST (s.getV x)).advance

end Sys2Proof.Machine
end

