-- ==== Sys2Proof/Machine/Skip.lean ====
section
/-! DEFINITION. Conditional skips on registers (spec/41_skip.md). -/

namespace Sys2Proof.Machine

/-- 3XNN: skip if `V[x] = nn` (R90). -/
def exec3XNN (x : Reg) (nn : Byte) (s : State) : Result := .next (s.skipIf (s.getV x == nn))

/-- 4XNN: skip if `V[x] != nn` (R91). -/
def exec4XNN (x : Reg) (nn : Byte) (s : State) : Result := .next (s.skipIf (s.getV x != nn))

/-- 5XY0: skip if `V[x] = V[y]`; `w[3:0]` is not examined (R92, R68). -/
def exec5XY0 (x y : Reg) (s : State) : Result := .next (s.skipIf (s.getV x == s.getV y))

/-- 9XY0: skip if `V[x] != V[y]`, only on inequality (R93, C8); `w[3:0]` is not examined (R68). -/
def exec9XY0 (x y : Reg) (s : State) : Result := .next (s.skipIf (s.getV x != s.getV y))

end Sys2Proof.Machine
end

