-- ==== Sys2Proof/Machine/Transfer.lean ====
section
/-! DEFINITION. Memory transfer instructions (spec/45_memory_transfer.md): the block is checked before any byte moves
(20_memory R50); `I` is not changed. -/

namespace Sys2Proof.Machine

/-- FX33: the three decimal digits of `V[x]` to `I`, `I + 1`, `I + 2` (R130). -/
def execFX33 (x : Reg) (s : State) : Result :=
  .next (if s.blockFits 3 then (s.writeBlock (bcdDigits (s.getV x))).advance
    else raise .memoryBounds (encode (.opFX33 x)) s)

/-- FX55: `V[0] .. V[x]` to memory from `I` (R132). -/
def execFX55 (x : Reg) (s : State) : Result :=
  .next (if s.blockFits (blockLen x) then (s.writeBlock (s.regBlock x)).advance
    else raise .memoryBounds (encode (.opFX55 x)) s)

/-- FX65: `V[0] .. V[x]` from memory at `I` (R134). -/
def execFX65 (x : Reg) (s : State) : Result :=
  .next (if s.blockFits (blockLen x) then (s.loadRegs x).advance
    else raise .memoryBounds (encode (.opFX65 x)) s)

end Sys2Proof.Machine
end

