-- ==== Sys2Proof/Machine/HostPort.lean ====
section
/-! DEFINITION. What the host does to the core and reads of it (spec/70_reset_and_hazards.md R190 to R196,
spec/60_exceptions.md R180). -/

namespace Sys2Proof.Machine

/-- `PROG_BASE`: the load address and the value `Run` gives `pc` (00_scope R5). -/
def progBase : Word := 0x0200

/-- The reset input, in any run state: every piece of state takes its reset value (R190). The parameters are the machine's;
the draw counter goes on, so that the draws after it are new ones (log 4, log 23). -/
def State.hostReset (s : State) : State := { State.resetWith s.params with draws := s.draws }

/-- `Load(bytes)`, in `Idle` (R195): the image verbatim from 0x200; an image that does not fit writes nothing and is reported. -/
def State.hostLoad (s : State) (image : List Byte) : State :=
  if image.length ≤ s.params.memSize - progBase.toNat then s.writeBytes progBase.toNat image
  else s.send .loadError

/-- `Run`, in `Idle`: `pc <- 0x200`, `run_state <- Running`; nothing else changes (R192). -/
def State.hostRun (s : State) : State := { s with pc := progBase, runState := .running }

/-- A host act on an `Idle` core (10_state R26). Reset is handled before, in any run state. -/
def State.idleAct (s : State) : HostAct → State
  | .none => s
  | .reset => s.hostReset
  | .load image => s.hostLoad image
  | .run => s.hostRun

/-- What the core exposes at all times, read-only (60_exceptions R180). -/
structure Outputs where
  DT : Byte
  ST : Byte
  runState : BitVec 2
  faultCode : BitVec 3
  faultPc : Word
  faultWord : Word
deriving DecidableEq, Repr

/-- The outputs of R180. -/
def outputs (s : State) : Outputs :=
  { DT := s.DT, ST := s.ST, runState := s.runState.code, faultCode := s.faultCode, faultPc := s.faultPc,
    faultWord := s.faultWord }

/-- What the host may read: the outputs while `Running`, the whole state otherwise (R180, R196). -/
inductive HostView where
  | outputsOnly (o : Outputs)
  | whole (s : State)
deriving DecidableEq, Repr

/-- What the host may read in a state (R180, R196). -/
def hostView (s : State) : HostView :=
  match s.runState with
  | .running => .outputsOnly (outputs s)
  | .idle => .whole s
  | .halted => .whole s
  | .faulted => .whole s

end Sys2Proof.Machine
end

