-- ==== Sys2Proof/Machine/Cycle.lean ====
section
/-! DEFINITION. The execution cycle (spec/10_state.md R30 to R34, spec/20_memory.md R44, spec/60_exceptions.md R173) and the
run states around it (10_state R26). `Sys2Proof.Machine.step` is `machineStep`. -/

namespace Sys2Proof.Machine

/-- What the fetch of a cycle gives: a word, or the condition it raises. -/
inductive Fetched where
  | word (w : Word)
  | fail (c : Condition)
deriving DecidableEq, Repr

/-- `FetchCheck()` passes: `pc` even and `pc + 1 < MEM_SIZE`, without wrap (R44). -/
def fetchable (p : Params) (pc : Word) : Bool := !pc.getLsbD 0 && decide (pc.toNat + 1 < p.memSize)

/-- The fetch: misalignment is checked first, then the bounds; the word is big-endian; no side effect (R44, R42, R31). -/
def fetch (s : State) : Fetched :=
  if s.pc.getLsbD 0 then .fail .fetchMisaligned
  else if s.pc.toNat + 1 ≥ s.params.memSize then .fail .fetchOutOfBounds
  else .word (wordOfBytes (s.readByte s.pc.toNat) (s.readByte (s.pc.toNat + 1)))

/-- The quit signal is seen at the start of a cycle, and not in the middle of one: FX0A samples it for itself, and a DXYN
wait does not sample it (R34, D33). -/
def quitSeen (s : State) : Bool := s.inputs.quit && decide (s.phase = .between)

/-- What closes a cycle after the execute step: the timer decrement, unless the instruction faulted, halted or still waits
(R33). -/
def finish (t : State) : State :=
  if t.runState = .running ∧ t.phase = .between then t.tickTimers else t

/-- The execute step of a decoded instruction and what closes the cycle; then the environment's next inputs are drawn. -/
def executed (i : Instr) (s : State) : Result :=
  match exec i s with
  | .next t => .next (finish t).redraw
  | .fault r => .fault r
  | .refused r => .refused r

/-- `Cycle()` of R30, in the order of R173: quit, the fetch checks, decode, execute. -/
def cycle (s : State) : Result :=
  if quitSeen s then .next s.halt.redraw
  else
    match fetch s with
    | .fail c => .next (raise c 0 s).redraw
    | .word w =>
      match decode s.params.strictLowNibble w with
      | .unimplementedOpcode w' => .next (raise .unimplementedOpcode w' s).redraw
      | .instr i => executed i s

/-- One step: a reset in any run state (R190), else what the run state allows (R26). `Idle`, `Halted` and `Faulted` hold
their state (log 7). -/
def machineStep (s : State) : Result :=
  if s.params.wf then
    if s.inputs.host = .reset then .next s.hostReset.redraw
    else
      match s.runState with
      | .idle => .next (s.idleAct s.inputs.host).redraw
      | .running => cycle s
      | .halted => .next s.redraw
      | .faulted => .next s.redraw
  else .fault .badParams

/-- The state with a word stored where the next fetch reads it, and everything the very next step needs to fetch it: running,
between cycles, no reset and no quit pending (log 18). -/
def placeWord (s : State) (w : Word) : State :=
  let pc := if fetchable s.params s.pc then s.pc else progBase
  { s.writeBytes pc.toNat [highByte w, lowByte w] with
    pc := pc, runState := .running, phase := .between,
    inputs := { s.inputs with host := .none, quit := false } }

end Sys2Proof.Machine
end

