-- ==== Sys2Proof/Machine/Step.lean ====
section
/-! DEFINITION. The step function and the placing of one word; both only call Sys2Proof/Machine/Cycle.lean. -/

namespace Sys2Proof.Machine

/-- One step of the machine (spec/10_state.md R26, R30). -/
def step (s : State) : Host.Outcome State Fault Refusal := machineStep s

/-- `s` with the instruction of a table word stored where `step` fetches its next instruction (log 18). -/
def State.withFetchWord (s : State) (nbits w : Nat) : State := placeWord s (tableWord nbits w)

end Sys2Proof.Machine
end

