-- ==== Sys2Proof/Safety.lean ====
section
/-! DEFINITION. The terms claims are stated in: what counts as a safe run, the parts of a state and what leaves them
unchanged, and the invariants of the machine. -/

namespace Sys2Proof.Machine

/-! ### Safe runs -/

/-- No fatal condition has been raised: "a run that ends in `Faulted` has gone wrong, it has not finished"
(60_exceptions R170). -/
def State.safe (s : State) : Prop := s.runState ≠ .faulted

/-- The run has finished: the quit signal ended it (10_state R26). -/
def State.finished (s : State) : Prop := s.runState = .halted

/-! ### Parts of a state, and frames -/

/-- The parts a state is made of. Every field of `State` is one part or a family of parts. -/
inductive Part where
  | reg (r : Reg)
  | I
  | pc
  | SP
  | slot (k : Fin 16)
  | DT
  | ST
  | runState
  | faultRecord
  | byte (a : Nat)
  | params
  | phase
  | inputs
  | draws
  | sent
deriving DecidableEq, Repr

/-- A part is the same in `t` as in `s`. -/
def Same (s t : State) : Part → Prop
  | .reg r => t.getV r = s.getV r
  | .I => t.I = s.I
  | .pc => t.pc = s.pc
  | .SP => t.SP = s.SP
  | .slot k => t.stack[k.val] = s.stack[k.val]
  | .DT => t.DT = s.DT
  | .ST => t.ST = s.ST
  | .runState => t.runState = s.runState
  | .faultRecord => t.faultCode = s.faultCode ∧ t.faultPc = s.faultPc ∧ t.faultWord = s.faultWord
  | .byte a => t.readByte a = s.readByte a
  | .params => t.params = s.params
  | .phase => t.phase = s.phase
  | .inputs => t.inputs = s.inputs
  | .draws => t.draws = s.draws
  | .sent => t.sent = s.sent

/-- Only the listed parts may differ: every register, stack slot, byte of memory and other part not listed is unchanged. -/
def Only (changed : List Part) (s t : State) : Prop := ∀ p, p ∉ changed → Same s t p

/-- The bytes of the block of `len` bytes at `I` (20_memory R49), as parts. -/
def blockParts (s : State) (len : Nat) : List Part := (List.range len).map fun k => .byte (s.I.toNat + k)

/-- The registers `V[0] .. V[x]`, as parts. -/
def regParts (x : Reg) : List Part := (List.range (x.toNat + 1)).map fun k => .reg (BitVec.ofNat 4 k)

/-- `t` is what fault entry leaves of `s` (60_exceptions R170): the record and the run state are written, all else is as it
was. The phase is the model's own. -/
def FaultedFrom (c : Condition) (word : Word) (s t : State) : Prop :=
  t.runState = .faulted ∧ t.faultCode = c.code ∧ t.faultPc = s.pc ∧ t.faultWord = word ∧
    Only [.runState, .faultRecord, .phase] s t

/-! ### When a step is a cycle -/

/-- The step of this state is a cycle of 10_state R30: legal parameters, running, no reset. -/
def State.cycles (s : State) : Prop := s.params.wf = true ∧ s.runState = .running ∧ s.inputs.host ≠ .reset

/-- The instruction at `pc`, if the fetch and the decoding give one. -/
def decodedAt (s : State) : Option Instr :=
  match fetch s with
  | .word w => (decode s.params.strictLowNibble w).instr?
  | .fail _ => none

/-! ### Invariants -/

/-- The memory is in its canonical form. -/
def State.memoryCanonical (s : State) : Prop := Memory.wf s.params s.mem = true

/-- The stack is never deeper than `STACK_LIMIT` (10_state R19). -/
def State.depthWithinLimit (s : State) : Prop := s.SP ≤ s.params.stackLimit

/-- "Code 0 means no fault" (60_exceptions R165): the record holds a code exactly in `Faulted`. -/
def State.faultRecordAgrees (s : State) : Prop := s.runState = .faulted ↔ s.faultCode ≠ 0

/-- The core waits only inside the instruction at `pc` that is allowed to wait, and only while running (10_state R32). -/
def State.waitAgrees (s : State) : Prop :=
  (s.runState ≠ .running → s.phase = .between) ∧
  (s.phase = .keyWait → ∃ x, decodedAt s = some (.opFX0A x)) ∧
  (s.phase = .drawWait → ∃ x y n, decodedAt s = some (.opDXYN x y n) ∧ s.blockFits n.toNat = true)

end Sys2Proof.Machine
end

