-- ==== Sys2Proof/Certificates/Slice0/Obligations.lean ====
section
/-! DEFINITION. The statements for the provers. Each docstring names the rule of spec/ it formalises. `Only l s t` says that
every part of the state outside `l` is unchanged: it is the frame of the instruction. -/

open Sys2Proof Sys2Proof.Machine

/-! ### Reset, the host and the run states -/

/-- 10_state R35, for all parameters. `pc` and the font are the document's; the zeros are the spec's own decisions (D3, D4,
D18). Nothing is said of the stack slots, which the spec leaves unspecified, nor of the model's own fields. -/
def Obligations.ResetLeavesTheResetValues : Prop :=
  ∀ p : Params, ∃ s, s = State.resetWith p ∧ s.params = p ∧
    s.pc = 0x0200 ∧ (∀ x, s.getV x = 0) ∧ s.I = 0 ∧ s.SP = 0 ∧ s.DT = 0 ∧ s.ST = 0 ∧
    s.runState = .idle ∧ s.faultCode = 0 ∧ s.faultPc = 0 ∧ s.faultWord = 0 ∧
    (∀ (d : Fin 16) (r : Fin 5), s.readByte (d.val * 10 + r.val) = p.font[d.val][r.val]) ∧
    (∀ a, (∀ (d : Fin 16) (r : Fin 5), a ≠ d.val * 10 + r.val) → s.readByte a = 0)

/-- 70_reset R190: reset in any run state leaves the reset values, whatever the state was (D20). The stack slots and the model's
own fields take the values the model chose for them (log 3, log 5). -/
def Obligations.ResetInputRestoresTheResetState : Prop :=
  ∀ s : State, s.params.wf = true → s.inputs.host = .reset →
    ∃ t, step s = .next t ∧ Only [.inputs, .draws] (State.resetWith s.params) t

/-- 70_reset R192: `Run` in `Idle` sets `pc` and the run state; nothing else changes (D20). The host's act as an input of the step is
log 8. -/
def Obligations.RunStartsAtProgramBase : Prop :=
  ∀ s : State, s.params.wf = true → s.runState = .idle → s.inputs.host = .run →
    ∃ t, step s = .next t ∧ t.pc = 0x0200 ∧ t.runState = .running ∧ Only [.pc, .runState, .inputs, .draws] s t

/-- 70_reset R195: a load that fits puts the image at 0x200; one that does not writes nothing (D29). The host's act
as an input of the step is log 8, the entry that reports the error log 16. -/
def Obligations.LoadCopiesTheImage : Prop :=
  ∀ (s : State) (image : List Byte), s.params.wf = true → s.runState = .idle → s.inputs.host = .load image →
    ∃ t, step s = .next t ∧
      (image.length ≤ s.params.memSize - 512 →
        (∀ k, (h : k < image.length) → t.readByte (512 + k) = image[k]) ∧
        Only (.inputs :: .draws :: (List.range image.length).map fun k => .byte (512 + k)) s t) ∧
      (s.params.memSize - 512 < image.length → t.sent = s.sent ++ [.loadError] ∧ Only [.inputs, .draws, .sent] s t)

/-- 10_state R26: no cycle runs in `Idle`, `Halted` or `Faulted`; without a reset, and in `Idle` without a host act, the
state is held, and a load or a `Run` outside `Idle` is ignored. That a step is there at all is the model's choice (log 7). -/
def Obligations.StoppedCoreHoldsItsState : Prop :=
  ∀ s : State, s.params.wf = true → s.inputs.host ≠ .reset →
    (s.runState = .idle ∧ s.inputs.host = .none ∨ s.runState = .halted ∨ s.runState = .faulted) →
    ∃ t, step s = .next t ∧ Only [.inputs, .draws] s t

/-! ### The cycle -/

/-- 10_state R31, 20_memory R42: the fetch of an even, in-range `pc` is the big-endian word there. -/
def Obligations.FetchIsBigEndian : Prop :=
  ∀ s : State, s.pc.toNat % 2 = 0 → s.pc.toNat + 1 < s.params.memSize →
    ∃ w, fetch s = .word w ∧
      w.toNat = (s.readByte s.pc.toNat).toNat * 256 + (s.readByte (s.pc.toNat + 1)).toNat

/-- 10_state R30: when the word at `pc` decodes to `i` (well-formed or not), a step without quit or reset is `exec i`, then
`finish`, which is the timer decrement of R33 unless the instruction faulted, halted or still waits, then the next inputs are
drawn (log 4). A fault or a refusal of `exec` would be the step's. -/
def Obligations.StepRunsTheDecodedInstruction : Prop :=
  ∀ (s : State) (w : Word) (i : Instr), s.cycles → quitSeen s = false → fetch s = .word w →
    decode s.params.strictLowNibble w = .instr i →
    step s = (match exec i s with
      | .next t => .next (if t.runState = .running ∧ t.phase = .between then t.tickTimers else t).redraw
      | .fault r => .fault r
      | .refused r => .refused r)

/-- 20_memory R44, 60_exceptions R169: an odd `pc` raises `FetchMisaligned`, checked first; an even one past the end raises
`FetchOutOfBounds`; no word is recorded, and nothing else of the core changes. These outcomes are the spec's decisions D7, D8. -/
def Obligations.FetchChecksFault : Prop :=
  ∀ s : State, s.cycles → quitSeen s = false →
    (s.pc.toNat % 2 = 1 → ∃ t, FaultedFrom .fetchMisaligned 0 s t ∧ step s = .next t.redraw) ∧
    (s.pc.toNat % 2 = 0 → s.params.memSize ≤ s.pc.toNat + 1 →
      ∃ t, FaultedFrom .fetchOutOfBounds 0 s t ∧ step s = .next t.redraw)

/-- 60_exceptions R166: a fetched word that is no instruction is fatal, recorded with its address, and changes nothing else. -/
def Obligations.UnimplementedWordFaults : Prop :=
  ∀ (s : State) (w : Word), s.cycles → quitSeen s = false → fetch s = .word w →
    decode s.params.strictLowNibble w = .unimplementedOpcode w →
    ∃ t, FaultedFrom .unimplementedOpcode w s t ∧ step s = .next t.redraw

/-- 10_state R34, 60_exceptions R173: a quit seen at the start of a cycle halts the core before anything is fetched; nothing
else changes, whatever stands at `pc`. That a cycle starts in the phase `between` is the model's (log 9, log 10, log 12). -/
def Obligations.QuitHaltsBeforeTheFetch : Prop :=
  ∀ s : State, s.cycles → s.phase = .between → s.inputs.quit = true →
    ∃ t, step s = .next t ∧ t.runState = .halted ∧ Only [.runState, .inputs, .draws] s t

/-- 10_state R33: after an execute step that completes, each timer that is above 0 loses 1 and neither goes below 0; a cycle
that faults, halts or still waits decrements nothing. The choice of both timers is the spec's decision D13; that a wait is
a step that decrements nothing is the model's (log 10, log 12). -/
def Obligations.CompletedCycleDecrementsBothTimers : Prop :=
  ∀ (s u : State) (i : Instr), s.cycles → quitSeen s = false → decodedAt s = some i → exec i s = .next u →
    (u.runState = .running → u.phase = .between →
      ∃ t, step s = .next t ∧ t.DT.toNat = u.DT.toNat - 1 ∧ t.ST.toNat = u.ST.toNat - 1 ∧
        Only [.DT, .ST, .inputs, .draws] u t) ∧
    ((u.runState ≠ .running ∨ u.phase ≠ .between) → ∃ t, step s = .next t ∧ Only [.inputs, .draws] u t)

/-! ### Jumps, calls and returns -/

/-- 40_flow R81. -/
def Obligations.JumpSetsPc : Prop :=
  ∀ (nnn : Addr) (s : State), ∃ t, exec (.op1NNN nnn) s = .next t ∧ t.pc.toNat = nnn.toNat ∧ Only [.pc] s t

/-- 40_flow R83: the 16-bit sum, not reduced to 12 bits (the spec's decision D25); `VF` is not written. -/
def Obligations.JumpWithOffsetAddsV0 : Prop :=
  ∀ (nnn : Addr) (s : State), ∃ t, exec (.opBNNN nnn) s = .next t ∧
    t.pc.toNat = nnn.toNat + (s.getV 0).toNat ∧ Only [.pc] s t

/-- 40_flow R82, 10_state R19: below the limit a call pushes the address after itself and jumps. -/
def Obligations.CallPushesTheReturnAddress : Prop :=
  ∀ (nnn : Addr) (s : State), s.SP < s.params.stackLimit →
    ∃ (k : Fin 16) (t : State), k.val = s.SP.val ∧ exec (.op2NNN nnn) s = .next t ∧ t.pc.toNat = nnn.toNat ∧
      t.stack[k.val] = s.pc + 2 ∧ t.SP.val = s.SP.val + 1 ∧ Only [.pc, .SP, .slot k] s t

/-- 40_flow R80: a return takes the newest entry, with no extra `+2`; the slot keeps its content. -/
def Obligations.ReturnPopsIntoPc : Prop :=
  ∀ s : State, 0 < s.SP.val →
    ∃ (k : Fin 16) (t : State), k.val + 1 = s.SP.val ∧ exec .op00EE s = .next t ∧ t.pc = s.stack[k.val] ∧
      t.SP.val = k.val ∧ Only [.pc, .SP] s t

/-- 40_flow R82, R80, 60_exceptions R167, R168: a call at the limit and a return with an empty stack are fatal; nothing is
pushed or popped (the guard of the return is the spec's decision D6). -/
def Obligations.StackBoundsAreFatal : Prop :=
  ∀ (nnn : Addr) (s : State),
    (s.params.stackLimit ≤ s.SP →
      ∃ t, exec (.op2NNN nnn) s = .next t ∧ FaultedFrom .stackOverflow (encode (.op2NNN nnn)) s t) ∧
    (s.SP = 0 → ∃ t, exec .op00EE s = .next t ∧ FaultedFrom .stackUnderflow 0x00EE s t)

/-- 95_test_vectors S5: a call and then a return leave the depth as it was and `pc` at the address after the call. -/
def Obligations.CallThenReturnComesBack : Prop :=
  ∀ (nnn : Addr) (s : State), s.SP < s.params.stackLimit →
    ∃ u t, exec (.op2NNN nnn) s = .next u ∧ exec .op00EE u = .next t ∧ t.SP = s.SP ∧ t.pc = s.pc + 2

/-! ### Skips -/

/-- 41_skip R90, R91. -/
def Obligations.SkipsOnAnImmediate : Prop :=
  ∀ (x : Reg) (nn : Byte) (s : State),
    (∃ t, exec (.op3XNN x nn) s = .next t ∧ t.pc = (if s.getV x = nn then s.pc + 4 else s.pc + 2) ∧ Only [.pc] s t) ∧
    (∃ t, exec (.op4XNN x nn) s = .next t ∧ t.pc = (if s.getV x ≠ nn then s.pc + 4 else s.pc + 2) ∧ Only [.pc] s t)

/-- 41_skip R92, R93: for every unexamined nibble; 9XY0 skips only on inequality (the spec's decision D21). -/
def Obligations.SkipsOnTwoRegisters : Prop :=
  ∀ (x y : Reg) (n : Nibble) (s : State),
    (∃ t, exec (.op5XY0 x y n) s = .next t ∧ t.pc = (if s.getV x = s.getV y then s.pc + 4 else s.pc + 2) ∧
      Only [.pc] s t) ∧
    (∃ t, exec (.op9XY0 x y n) s = .next t ∧ t.pc = (if s.getV x ≠ s.getV y then s.pc + 4 else s.pc + 2) ∧
      Only [.pc] s t)

/-! ### Immediates, arithmetic and logic -/

/-- 42_immediate R100. -/
def Obligations.LoadImmediateWritesVx : Prop :=
  ∀ (x : Reg) (nn : Byte) (s : State),
    ∃ t, exec (.op6XNN x nn) s = .next t ∧ t.getV x = nn ∧ t.pc = s.pc + 2 ∧ Only [.pc, .reg x] s t

/-- 42_immediate R101: modulo 256, and no flag: with `x = 15` the sum itself is what `VF` holds. -/
def Obligations.AddImmediateSetsNoFlag : Prop :=
  ∀ (x : Reg) (nn : Byte) (s : State),
    ∃ t, exec (.op7XNN x nn) s = .next t ∧ (t.getV x).toNat = ((s.getV x).toNat + nn.toNat) % 256 ∧
      t.pc = s.pc + 2 ∧ Only [.pc, .reg x] s t

/-- 43_alu R105 to R108: copy, OR, AND, XOR of the values before the instruction, and no flag. -/
def Obligations.CopyAndLogicSetNoFlag : Prop :=
  ∀ (x y : Reg) (s : State), ∀ p ∈ [(Instr.op8XY0 x y, s.getV y), (Instr.op8XY1 x y, s.getV x ||| s.getV y),
      (Instr.op8XY2 x y, s.getV x &&& s.getV y), (Instr.op8XY3 x y, s.getV x ^^^ s.getV y)],
    ∃ t, exec p.1 s = .next t ∧ t.getV x = p.2 ∧ t.pc = s.pc + 2 ∧ Only [.pc, .reg x] s t

/-- 43_alu R109: the sum of the values before the instruction, modulo 256; `VF` is the carry, also with `x = 15` (the flag is
written last: the spec's decision D10). -/
def Obligations.AddSetsTheCarry : Prop :=
  ∀ (x y : Reg) (s : State),
    ∃ t, exec (.op8XY4 x y) s = .next t ∧
      (x ≠ VF → (t.getV x).toNat = ((s.getV x).toNat + (s.getV y).toNat) % 256) ∧
      t.getV VF = (if (s.getV x).toNat + (s.getV y).toNat > 255 then 1 else 0) ∧
      t.pc = s.pc + 2 ∧ Only [.pc, .reg x, .reg VF] s t

/-- 43_alu R110: the difference modulo 256; `VF` = 1 means no borrow, equal operands included (D22; D10 for `x = 15`). -/
def Obligations.SubtractSetsNoBorrow : Prop :=
  ∀ (x y : Reg) (s : State),
    ∃ t, exec (.op8XY5 x y) s = .next t ∧
      (x ≠ VF → (t.getV x).toNat = ((s.getV x).toNat + 256 - (s.getV y).toNat) % 256) ∧
      t.getV VF = (if (s.getV x).toNat ≥ (s.getV y).toNat then 1 else 0) ∧
      t.pc = s.pc + 2 ∧ Only [.pc, .reg x, .reg VF] s t

/-- 43_alu R113: `V[y] - V[x]` modulo 256; `VF` = 1 means no borrow (D10 for `x = 15`). -/
def Obligations.ReverseSubtractSetsNoBorrow : Prop :=
  ∀ (x y : Reg) (s : State),
    ∃ t, exec (.op8XY7 x y) s = .next t ∧
      (x ≠ VF → (t.getV x).toNat = ((s.getV y).toNat + 256 - (s.getV x).toNat) % 256) ∧
      t.getV VF = (if (s.getV y).toNat ≥ (s.getV x).toNat then 1 else 0) ∧
      t.pc = s.pc + 2 ∧ Only [.pc, .reg x, .reg VF] s t

/-- 43_alu R111, R112, R114: both shifts take `V[y]` by one; a zero enters, and `VF` is the bit shifted out of `V[y]`, bit 0 to
the right and bit 7 to the left; the old `V[x]` is not used (D10 for `x = 15`). -/
def Obligations.ShiftsTakeVy : Prop :=
  ∀ (x y : Reg) (s : State),
    (∃ t, exec (.op8XY6 x y) s = .next t ∧
      (x ≠ VF → (t.getV x).toNat = (s.getV y).toNat / 2) ∧
      (t.getV VF).toNat = (s.getV y).toNat % 2 ∧
      t.pc = s.pc + 2 ∧ Only [.pc, .reg x, .reg VF] s t) ∧
    (∃ t, exec (.op8XYE x y) s = .next t ∧
      (x ≠ VF → (t.getV x).toNat = (s.getV y).toNat * 2 % 256) ∧
      (t.getV VF).toNat = (s.getV y).toNat / 128 ∧
      t.pc = s.pc + 2 ∧ Only [.pc, .reg x, .reg VF] s t)

/-! ### The address register -/

/-- 44_index R120. -/
def Obligations.LoadIndexWritesI : Prop :=
  ∀ (nnn : Addr) (s : State), ∃ t, exec (.opANNN nnn) s = .next t ∧ t.I.toNat = nnn.toNat ∧ t.pc = s.pc + 2 ∧
    Only [.pc, .I] s t

/-- 44_index R122: `I` wraps at 16 bits, `VF` tests the unwrapped sum against `MEM_SIZE` (the spec's decision D2), and with
`x = 15` the addend is the old `VF`. -/
def Obligations.AddToIndexFlagsOverflow : Prop :=
  ∀ (x : Reg) (s : State), s.params.wf = true →
    ∃ t, exec (.opFX1E x) s = .next t ∧ t.I.toNat = (s.I.toNat + (s.getV x).toNat) % 65536 ∧
      t.getV VF = (if s.params.memSize ≤ s.I.toNat + (s.getV x).toNat then 1 else 0) ∧
      t.pc = s.pc + 2 ∧ Only [.pc, .I, .reg VF] s t

/-- 44_index R124: the whole register times 10, unmasked (the spec's decision D26). -/
def Obligations.FontAddressIsTenTimesVx : Prop :=
  ∀ (x : Reg) (s : State), ∃ t, exec (.opFX29 x) s = .next t ∧ t.I.toNat = (s.getV x).toNat * 10 ∧
    t.pc = s.pc + 2 ∧ Only [.pc, .I] s t

/-! ### Memory transfer -/

/-- 45_memory_transfer R130: hundreds, tens and ones at `I`, `I + 1`, `I + 2`; no other byte, no register and not `I`. -/
def Obligations.StoreDecimalDigits : Prop :=
  ∀ (x : Reg) (s : State), s.I.toNat + 3 ≤ s.params.memSize →
    ∃ t, exec (.opFX33 x) s = .next t ∧
      (t.readByte s.I.toNat).toNat = (s.getV x).toNat / 100 ∧
      (t.readByte (s.I.toNat + 1)).toNat = (s.getV x).toNat / 10 % 10 ∧
      (t.readByte (s.I.toNat + 2)).toNat = (s.getV x).toNat % 10 ∧
      t.pc = s.pc + 2 ∧ Only (.pc :: blockParts s 3) s t

/-- 45_memory_transfer R132: `V[0] .. V[x]` to the block at `I`; `I` and every register unchanged; a block that runs past
the end is `MemoryBounds`, and no byte is written. -/
def Obligations.StoreRegistersWritesTheBlock : Prop :=
  ∀ (x : Reg) (s : State),
    (s.I.toNat + x.toNat + 1 ≤ s.params.memSize →
      ∃ t, exec (.opFX55 x) s = .next t ∧ (∀ r : Reg, r ≤ x → t.readByte (s.I.toNat + r.toNat) = s.getV r) ∧
        t.pc = s.pc + 2 ∧ Only (.pc :: blockParts s (x.toNat + 1)) s t) ∧
    (s.params.memSize < s.I.toNat + x.toNat + 1 →
      ∃ t, exec (.opFX55 x) s = .next t ∧ FaultedFrom .memoryBounds (encode (.opFX55 x)) s t)

/-- 45_memory_transfer R134: `V[0] .. V[x]` from the block at `I`; memory, `I` and the registers above `x` unchanged; a block
that runs past the end is `MemoryBounds`, and no register is written. -/
def Obligations.LoadRegistersReadsTheBlock : Prop :=
  ∀ (x : Reg) (s : State),
    (s.I.toNat + x.toNat + 1 ≤ s.params.memSize →
      ∃ t, exec (.opFX65 x) s = .next t ∧ (∀ r : Reg, r ≤ x → t.getV r = s.readByte (s.I.toNat + r.toNat)) ∧
        t.pc = s.pc + 2 ∧ Only (.pc :: regParts x) s t) ∧
    (s.params.memSize < s.I.toNat + x.toNat + 1 →
      ∃ t, exec (.opFX65 x) s = .next t ∧ FaultedFrom .memoryBounds (encode (.opFX65 x)) s t)

/-- 20_memory R50: FX33 and DXYN on a block past the end are fatal before any byte moves and before any request is sent;
with `n = 0` DXYN checks nothing (the outcome is the spec's decision D9). -/
def Obligations.DigitsAndSpriteOutOfBoundsFault : Prop :=
  ∀ (x y : Reg) (n : Nibble) (s : State),
    (s.params.memSize < s.I.toNat + 3 →
      ∃ t, exec (.opFX33 x) s = .next t ∧ FaultedFrom .memoryBounds (encode (.opFX33 x)) s t) ∧
    (n ≠ 0 → s.params.memSize < s.I.toNat + n.toNat →
      ∃ t, exec (.opDXYN x y n) s = .next t ∧ FaultedFrom .memoryBounds (encode (.opDXYN x y n)) s t)

/-- 45_memory_transfer R134 and 95_test_vectors S8: what FX55 stored, FX65 from the same base loads back, whatever the
registers hold in between. -/
def Obligations.StoreThenLoadRestoresTheRegisters : Prop :=
  ∀ (x : Reg) (s u v : State), s.I.toNat + x.toNat + 1 ≤ s.params.memSize → exec (.opFX55 x) s = .next u →
    v.params = u.params → v.mem = u.mem → v.I = u.I →
    ∃ t, exec (.opFX65 x) v = .next t ∧ ∀ r : Reg, r ≤ x → t.getV r = s.getV r

/-- 20_memory R55: the very next fetch sees a store: a word stored at `I = pc + 2` by FX55 from `V[0]`, `V[1]` is the word
the next cycle fetches. -/
def Obligations.NextFetchSeesTheStore : Prop :=
  ∀ (x : Reg) (s : State), 1 ≤ x.toNat → s.I = s.pc + 2 → s.pc.toNat % 2 = 0 →
    s.I.toNat + x.toNat + 1 ≤ s.params.memSize →
    ∃ t, exec (.opFX55 x) s = .next t ∧ fetch t = .word (wordOfBytes (s.getV 0) (s.getV 1))

/-! ### Display and random -/

/-- 46_random_display R140: exactly one `Clear`, `pc` by 2, and nothing else. -/
def Obligations.ClearSendsOneRequest : Prop :=
  ∀ s : State, ∃ t, exec .op00E0 s = .next t ∧ t.sent = s.sent ++ [.clear] ∧ t.pc = s.pc + 2 ∧ Only [.pc, .sent] s t

/-- 46_random_display R142: the environment's byte AND `nn`, for every byte; at most `nn`, 0 wherever `nn` has a 0. -/
def Obligations.RandomIsMasked : Prop :=
  ∀ (x : Reg) (nn : Byte) (s : State),
    ∃ t, exec (.opCXNN x nn) s = .next t ∧ t.getV x = s.inputs.random &&& nn ∧ (t.getV x).toNat ≤ nn.toNat ∧
      (∀ k, nn.getLsbD k = false → (t.getV x).getLsbD k = false) ∧
      t.pc = s.pc + 2 ∧ t.sent = s.sent ++ [.randomByte] ∧ Only [.pc, .reg x, .sent] s t

/-- 46_random_display R144: once the display answers, `VF` is its answer and `pc` advances; the request has carried the two
coordinates unreduced and the `n` bytes at `I`, row 0 first, and is sent once, however long the answer took. -/
def Obligations.DrawStoresTheCollision : Prop :=
  ∀ (x y : Reg) (n : Nibble) (s : State) (c : Bool), (n = 0 ∨ s.I.toNat + n.toNat ≤ s.params.memSize) →
    s.inputs.collided = some c →
    ∃ t, exec (.opDXYN x y n) s = .next t ∧ t.getV VF = (if c then 1 else 0) ∧ t.pc = s.pc + 2 ∧ t.phase = .between ∧
      (s.phase ≠ .drawWait → t.sent = s.sent ++
        [.sprite (s.getV x) (s.getV y) ((List.range n.toNat).map fun k => s.readByte (s.I.toNat + k))]) ∧
      (s.phase = .drawWait → t.sent = s.sent) ∧
      Only [.pc, .reg VF, .phase, .sent] s t

/-- 46_random_display R144, 10_state R32: while the display has not answered, the request stands sent and no state of the
core changes. -/
def Obligations.DrawWaitsForTheAnswer : Prop :=
  ∀ (x y : Reg) (n : Nibble) (s : State), (n = 0 ∨ s.I.toNat + n.toNat ≤ s.params.memSize) → s.inputs.collided = none →
    ∃ t, exec (.opDXYN x y n) s = .next t ∧ t.phase = .drawWait ∧
      (s.phase ≠ .drawWait → t.sent = s.sent ++
        [.sprite (s.getV x) (s.getV y) ((List.range n.toNat).map fun k => s.readByte (s.I.toNat + k))]) ∧
      (s.phase = .drawWait → t.sent = s.sent) ∧
      Only [.phase, .sent] s t

/-! ### Keypad and timers -/

/-- 47_keypad R150, R151: the whole byte is compared with the drained key values (the spec's decision D14), so a `V[x]` of
0x10 or more names no key. The drained keys are free values (log 4, log 14). -/
def Obligations.SkipsOnADrainedKey : Prop :=
  ∀ (x : Reg) (s : State),
    (∃ t, exec (.opEX9E x) s = .next t ∧
      t.pc = (if ∃ k ∈ s.inputs.drained, k.toNat = (s.getV x).toNat then s.pc + 4 else s.pc + 2) ∧
      t.sent = s.sent ++ [.drainKeys] ∧ Only [.pc, .sent] s t) ∧
    (∃ t, exec (.opEXA1 x) s = .next t ∧
      t.pc = (if ∃ k ∈ s.inputs.drained, k.toNat = (s.getV x).toNat then s.pc + 2 else s.pc + 4) ∧
      t.sent = s.sent ++ [.drainKeys] ∧ Only [.pc, .sent] s t)

/-- 47_keypad R154: the key that comes goes to `V[x]`, zero-extended, and `pc` advances; `WaitKey` is begun once. -/
def Obligations.WaitKeyStoresTheKey : Prop :=
  ∀ (x : Reg) (s : State) (k : Key), s.inputs.waitKey = .key k →
    ∃ t, exec (.opFX0A x) s = .next t ∧ (t.getV x).toNat = k.toNat ∧ t.pc = s.pc + 2 ∧ t.phase = .between ∧
      t.sent = (if s.phase = .keyWait then s.sent else s.sent ++ [.waitKey]) ∧
      Only [.pc, .reg x, .phase, .sent] s t

/-- 47_keypad R154: while no key has come, `pc` points at the FX0A word and no register, timer or memory byte changes. -/
def Obligations.WaitKeyHoldsTheCore : Prop :=
  ∀ (x : Reg) (s : State), s.inputs.waitKey = .pending →
    ∃ t, exec (.opFX0A x) s = .next t ∧ t.phase = .keyWait ∧
      t.sent = (if s.phase = .keyWait then s.sent else s.sent ++ [.waitKey]) ∧ Only [.phase, .sent] s t

/-- 47_keypad R155: quit during the wait halts the core; `V[x]` is any byte, `pc` is the address or the address plus 2, each
timer is as before or after one decrement, and all else is as before. The bounds are the spec's decision D15; the values
are free (log 11), and nothing is said of which they are. -/
def Obligations.QuitEndsTheKeyWait : Prop :=
  ∀ (x : Reg) (s : State), s.inputs.waitKey = .quit →
    ∃ t, exec (.opFX0A x) s = .next t ∧ t.runState = .halted ∧ t.phase = .between ∧
      (t.pc = s.pc ∨ t.pc = s.pc + 2) ∧
      (t.DT = s.DT ∨ t.DT.toNat = s.DT.toNat - 1) ∧ (t.ST = s.ST ∨ t.ST.toNat = s.ST.toNat - 1) ∧
      t.sent = (if s.phase = .keyWait then s.sent else s.sent ++ [.waitKey]) ∧
      Only [.reg x, .pc, .DT, .ST, .runState, .phase, .sent] s t

/-- 47_keypad R157 to R159: the execute steps, before the decrement that closes the cycle. -/
def Obligations.TimerInstructionsCopy : Prop :=
  ∀ (x : Reg) (s : State),
    (∃ t, exec (.opFX07 x) s = .next t ∧ t.getV x = s.DT ∧ t.pc = s.pc + 2 ∧ Only [.pc, .reg x] s t) ∧
    (∃ t, exec (.opFX15 x) s = .next t ∧ t.DT = s.getV x ∧ t.pc = s.pc + 2 ∧ Only [.pc, .DT] s t) ∧
    (∃ t, exec (.opFX18 x) s = .next t ∧ t.ST = s.getV x ∧ t.pc = s.pc + 2 ∧ Only [.pc, .ST] s t)

/-! ### Rules of the whole machine -/

/-- 60_exceptions R170: faults are precise. An execute step that leaves a running core faulted leaves exactly the state
before it plus the record, with the instruction's own word. -/
def Obligations.ExecuteFaultsArePrecise : Prop :=
  ∀ (i : Instr) (s t : State), s.runState = .running → exec i s = .next t → t.runState = .faulted →
    ∃ c, (c = .stackOverflow ∨ c = .stackUnderflow ∨ c = .memoryBounds) ∧ FaultedFrom c (encode i) s t

/-- 60_exceptions R165: the execute step of the 28 instructions other than 2NNN, 00EE, DXYN, FX33, FX55 and FX65 raises
nothing, in any state. -/
def Obligations.TwentyEightInstructionsNeverFault : Prop :=
  ∀ (i : Instr) (s : State), i ≠ .op00EE → (∀ nnn, i ≠ .op2NNN nnn) → (∀ x y n, i ≠ .opDXYN x y n) →
    (∀ x, i ≠ .opFX33 x) → (∀ x, i ≠ .opFX55 x) → (∀ x, i ≠ .opFX65 x) →
    ∃ t, exec i s = .next t ∧ Same s t .faultRecord ∧ (t.runState = s.runState ∨ t.runState = .halted)

/-- 20_memory R41 (conflict C6): no execute step but those of FX33 and FX55 changes a byte of memory, and those change
no byte outside their block. -/
def Obligations.OnlyTwoInstructionsWriteMemory : Prop :=
  ∀ (i : Instr) (s t : State) (a : Nat), exec i s = .next t → t.readByte a ≠ s.readByte a →
    ∃ (x : Reg) (len : Nat), (i = .opFX33 x ∧ len = 3 ∨ i = .opFX55 x ∧ len = x.toNat + 1) ∧
      s.I.toNat ≤ a ∧ a < s.I.toNat + len ∧ s.I.toNat + len ≤ s.params.memSize

/-- 10_state R18: no instruction other than 2NNN and 00EE touches the call stack, and no store reaches it; 00EE leaves the
slots as they are, and 2NNN changes the slot at the old depth alone. -/
def Obligations.OnlyCallAndReturnTouchTheStack : Prop :=
  ∀ (i : Instr) (s t : State), exec i s = .next t →
    (t.SP ≠ s.SP → i = .op00EE ∨ ∃ nnn, i = .op2NNN nnn) ∧
    (∀ k : Fin 16, t.stack[k.val] ≠ s.stack[k.val] → k.val = s.SP.val ∧ ∃ nnn, i = .op2NNN nnn)

/-- 10_state R12: `VF` is left alone by every instruction but the seven flag writers, unless it names `V[15]` as its
destination; and a flag writer that completes leaves 0 or 1 there. -/
def Obligations.OnlyFlagWritersTouchVF : Prop :=
  ∀ (i : Instr) (s t : State), exec i s = .next t → t.getV VF ≠ s.getV VF →
    ((t.getV VF = 0 ∨ t.getV VF = 1) ∧
      ((∃ x y, i = .op8XY4 x y ∨ i = .op8XY5 x y ∨ i = .op8XY6 x y ∨ i = .op8XY7 x y ∨ i = .op8XYE x y) ∨
        (∃ x y n, i = .opDXYN x y n) ∨ ∃ x, i = .opFX1E x)) ∨
    (∃ nn, i = .op6XNN VF nn ∨ i = .op7XNN VF nn ∨ i = .opCXNN VF nn) ∨
    (∃ y, i = .op8XY0 VF y ∨ i = .op8XY1 VF y ∨ i = .op8XY2 VF y ∨ i = .op8XY3 VF y) ∨
    i = .opFX07 VF ∨ i = .opFX0A VF ∨ i = .opFX65 VF

/-- 60_exceptions R175 to R179: the environment's answers reach only CXNN, DXYN, EX9E, EXA1 and FX0A: every other
instruction does the same whatever they are. The form of the inputs is the model's (log 4). -/
def Obligations.AnswersReachFiveInstructions : Prop :=
  ∀ (i : Instr) (s t : State) (a : Inputs), (∀ x nn, i ≠ .opCXNN x nn) → (∀ x y n, i ≠ .opDXYN x y n) →
    (∀ x, i ≠ .opEX9E x) → (∀ x, i ≠ .opEXA1 x) → (∀ x, i ≠ .opFX0A x) →
    exec i s = .next t → exec i { s with inputs := a } = .next { t with inputs := a }

/-- 60_exceptions R170, 30_encoding R67: with legal parameters no word, no operand and no input stops the model, and the
parameters never change. That an FX0A or a DXYN which still waits answers a next state is the model's choice (log 10,
log 12: a wait is a sequence of poll steps, where 93 U22 calls a wait that never ends stuck); so is the step that holds a
stopped core (log 7), and that the parameters stand in the state (log 1). -/
def Obligations.EveryStepAnswers : Prop :=
  ∀ s : State, s.params.wf = true → ∃ t, step s = .next t ∧ t.params = s.params

/-! ### Invariants that every step keeps -/

/-- The canonical form of memory (the model's own, log 19), through stores, loads and resets. -/
def Obligations.StepKeepsMemoryCanonical : Prop :=
  ∀ s t : State, s.memoryCanonical → step s = .next t → t.memoryCanonical

/-- 10_state R19: the depth never exceeds `STACK_LIMIT`. -/
def Obligations.StepKeepsDepthWithinLimit : Prop :=
  ∀ s t : State, s.depthWithinLimit → step s = .next t → t.depthWithinLimit

/-- 60_exceptions R165, R170: the record holds a code exactly while the core is `Faulted`. -/
def Obligations.StepKeepsFaultRecordAgrees : Prop :=
  ∀ s t : State, s.faultRecordAgrees → step s = .next t → t.faultRecordAgrees

/-- 10_state R32, 47_keypad R154: the core waits only at an FX0A or a DXYN that may wait, and only while running. The phase
is the model's own (log 10, log 12). -/
def Obligations.StepKeepsWaitAgrees : Prop :=
  ∀ s t : State, s.waitAgrees → step s = .next t → t.waitAgrees

/-- 10_state R35 gives the depth, the run state and the fault record of the second and third clause. The first and fourth
rest on the model's own representation and reset values: the memory list (log 19), and the phase, which is `between` at
reset (log 5) and marks a wait (log 10, log 12). -/
def Obligations.ResetMeetsTheInvariants : Prop :=
  ∀ p : Params, (State.resetWith p).memoryCanonical ∧ (State.resetWith p).depthWithinLimit ∧
    (State.resetWith p).faultRecordAgrees ∧ (State.resetWith p).waitAgrees

/-! ### Decoding and encoding -/

/-- 30_encoding R64, R66: decoding the encoding of any instruction gives it back, with every operand at every value; under
`STRICT_LOW_NIBBLE`, of every well-formed one. The unexamined nibble as an operand is log 15. -/
def Obligations.DecodeOfEncodeIsTheInstruction : Prop :=
  ∀ (strict : Bool) (i : Instr), (strict = true → i.wf = true) → decode strict (encode i) = .instr i

/-- 30_encoding R61, R62: no bit of a word is dropped: a word that decodes is the encoding of what it decodes to. -/
def Obligations.EncodeOfDecodeIsTheWord : Prop :=
  ∀ (strict : Bool) (w : Word) (i : Instr), decode strict w = .instr i → encode i = w ∧ (strict = true → i.wf = true)

/-- 30_encoding R67, with the default `STRICT_LOW_NIBBLE`: exactly the words of the table are unimplemented. -/
def Obligations.UnimplementedWordsAreTheTable : Prop :=
  ∀ w : Word, decode false w = .unimplementedOpcode w ↔
    (opClass w = 0x0 ∧ w ≠ 0x00E0 ∧ w ≠ 0x00EE) ∨
    (opClass w = 0x8 ∧ fieldN w ∈ [0x8, 0x9, 0xA, 0xB, 0xC, 0xD, 0xF]) ∨
    (opClass w = 0xE ∧ fieldNN w ∉ [0x9E, 0xA1]) ∨
    (opClass w = 0xF ∧ fieldNN w ∉ [0x07, 0x0A, 0x15, 0x18, 0x1E, 0x29, 0x33, 0x55, 0x65])

/-- 95_test_vectors 2.1: words written out by hand decode to what they stand for. -/
def Obligations.HandWrittenWordsDecode : Prop :=
  decode false 0x1ABC = .instr (.op1NNN 0xABC) ∧ decode false 0x3A7F = .instr (.op3XNN 10 0x7F) ∧
  decode false 0x5120 = .instr (.op5XY0 1 2 0) ∧ decode false 0x8AB4 = .instr (.op8XY4 10 11) ∧
  decode false 0xD12F = .instr (.opDXYN 1 2 15) ∧ decode false 0xE19E = .instr (.opEX9E 1) ∧
  decode false 0xF165 = .instr (.opFX65 1) ∧ decode false 0x0000 = .unimplementedOpcode 0x0000
end

