-- ==== Sys2Proof/Laws/Decode.lean ====
section
/-! SUPPORT. Fields and formats as numbers (spec/30_encoding.md R61, R62), and what each field of an encoded word is. -/

namespace Sys2Proof

/-! ### Each field and each format as a number -/

theorem toNat_opClass (w : Word) : (opClass w).toNat = w.toNat / 4096 := by
  have := w.isLt
  simp [opClass, Nat.shiftRight_eq_div_pow]; omega

theorem toNat_fieldX (w : Word) : (fieldX w).toNat = w.toNat / 256 % 16 := by
  simp [fieldX, Nat.shiftRight_eq_div_pow]

theorem toNat_fieldY (w : Word) : (fieldY w).toNat = w.toNat / 16 % 16 := by
  simp [fieldY, Nat.shiftRight_eq_div_pow]

theorem toNat_fieldN (w : Word) : (fieldN w).toNat = w.toNat % 16 := by simp [fieldN]

theorem toNat_fieldNN (w : Word) : (fieldNN w).toNat = w.toNat % 256 := by simp [fieldNN]

theorem toNat_fieldNNN (w : Word) : (fieldNNN w).toNat = w.toNat % 4096 := by simp [fieldNNN]

/-- A concatenation as a number. -/
theorem toNat_concat {m n : Nat} (a : BitVec m) (b : BitVec n) : (a ++ b).toNat = a.toNat * 2 ^ n + b.toNat := by
  rw [BitVec.toNat_append, ← Nat.shiftLeft_add_eq_or_of_lt b.isLt, Nat.shiftLeft_eq]

theorem toNat_formatA (c : BitVec 4) (nnn : Addr) : (formatA c nnn).toNat = c.toNat * 4096 + nnn.toNat :=
  toNat_concat c nnn

theorem toNat_formatXI (c : BitVec 4) (x : Reg) (nn : Byte) :
    (formatXI c x nn).toNat = c.toNat * 4096 + x.toNat * 256 + nn.toNat := by
  have h1 : (formatXI c x nn).toNat = (c ++ x).toNat * 2 ^ 8 + nn.toNat := toNat_concat (c ++ x) nn
  rw [h1, toNat_concat]; omega

theorem toNat_formatXYN (c : BitVec 4) (x y : Reg) (n : Nibble) :
    (formatXYN c x y n).toNat = c.toNat * 4096 + x.toNat * 256 + y.toNat * 16 + n.toNat := by
  have h1 : (formatXYN c x y n).toNat = ((c ++ x) ++ y).toNat * 2 ^ 4 + n.toNat := toNat_concat ((c ++ x) ++ y) n
  rw [h1, toNat_concat, toNat_concat]; omega

theorem toNat_wordOfBytes (high low : Byte) : (wordOfBytes high low).toNat = high.toNat * 256 + low.toNat :=
  toNat_concat high low

/-! ### The fields of each format -/

@[simp] theorem opClass_formatA (c : BitVec 4) (nnn : Addr) : opClass (formatA c nnn) = c := by
  apply BitVec.eq_of_toNat_eq; rw [toNat_opClass, toNat_formatA]; omega

@[simp] theorem fieldNNN_formatA (c : BitVec 4) (nnn : Addr) : fieldNNN (formatA c nnn) = nnn := by
  apply BitVec.eq_of_toNat_eq; rw [toNat_fieldNNN, toNat_formatA]; omega

@[simp] theorem opClass_formatXI (c : BitVec 4) (x : Reg) (nn : Byte) : opClass (formatXI c x nn) = c := by
  apply BitVec.eq_of_toNat_eq; rw [toNat_opClass, toNat_formatXI]; omega

@[simp] theorem fieldX_formatXI (c : BitVec 4) (x : Reg) (nn : Byte) : fieldX (formatXI c x nn) = x := by
  apply BitVec.eq_of_toNat_eq; rw [toNat_fieldX, toNat_formatXI]; omega

@[simp] theorem fieldNN_formatXI (c : BitVec 4) (x : Reg) (nn : Byte) : fieldNN (formatXI c x nn) = nn := by
  apply BitVec.eq_of_toNat_eq; rw [toNat_fieldNN, toNat_formatXI]; omega

@[simp] theorem opClass_formatXYN (c : BitVec 4) (x y : Reg) (n : Nibble) : opClass (formatXYN c x y n) = c := by
  apply BitVec.eq_of_toNat_eq; rw [toNat_opClass, toNat_formatXYN]; omega

@[simp] theorem fieldX_formatXYN (c : BitVec 4) (x y : Reg) (n : Nibble) : fieldX (formatXYN c x y n) = x := by
  apply BitVec.eq_of_toNat_eq; rw [toNat_fieldX, toNat_formatXYN]; omega

@[simp] theorem fieldY_formatXYN (c : BitVec 4) (x y : Reg) (n : Nibble) : fieldY (formatXYN c x y n) = y := by
  apply BitVec.eq_of_toNat_eq; rw [toNat_fieldY, toNat_formatXYN]; omega

@[simp] theorem fieldN_formatXYN (c : BitVec 4) (x y : Reg) (n : Nibble) : fieldN (formatXYN c x y n) = n := by
  apply BitVec.eq_of_toNat_eq; rw [toNat_fieldN, toNat_formatXYN]; omega

/-- A word is put together from its two bytes (20_memory R42). -/
@[simp] theorem wordOfBytes_high_low (w : Word) : wordOfBytes (highByte w) (lowByte w) = w := by
  have := w.isLt
  apply BitVec.eq_of_toNat_eq
  rw [toNat_wordOfBytes]
  simp [highByte, lowByte, Nat.shiftRight_eq_div_pow]
  omega

end Sys2Proof
end

