-- ==== Sys2Proof/Laws/State.lean ====
section
/-! SUPPORT. What each primitive update leaves in each field of the state, so that no later proof unfolds a record update. -/

namespace Sys2Proof.Machine

/-! ### setV -/

@[simp] theorem setV_params (s : State) (x : Reg) (b : Byte) : (s.setV x b).params = s.params := rfl
@[simp] theorem setV_I (s : State) (x : Reg) (b : Byte) : (s.setV x b).I = s.I := rfl
@[simp] theorem setV_pc (s : State) (x : Reg) (b : Byte) : (s.setV x b).pc = s.pc := rfl
@[simp] theorem setV_SP (s : State) (x : Reg) (b : Byte) : (s.setV x b).SP = s.SP := rfl
@[simp] theorem setV_stack (s : State) (x : Reg) (b : Byte) : (s.setV x b).stack = s.stack := rfl
@[simp] theorem setV_DT (s : State) (x : Reg) (b : Byte) : (s.setV x b).DT = s.DT := rfl
@[simp] theorem setV_ST (s : State) (x : Reg) (b : Byte) : (s.setV x b).ST = s.ST := rfl
@[simp] theorem setV_runState (s : State) (x : Reg) (b : Byte) : (s.setV x b).runState = s.runState := rfl
@[simp] theorem setV_faultCode (s : State) (x : Reg) (b : Byte) : (s.setV x b).faultCode = s.faultCode := rfl
@[simp] theorem setV_faultPc (s : State) (x : Reg) (b : Byte) : (s.setV x b).faultPc = s.faultPc := rfl
@[simp] theorem setV_faultWord (s : State) (x : Reg) (b : Byte) : (s.setV x b).faultWord = s.faultWord := rfl
@[simp] theorem setV_mem (s : State) (x : Reg) (b : Byte) : (s.setV x b).mem = s.mem := rfl
@[simp] theorem setV_phase (s : State) (x : Reg) (b : Byte) : (s.setV x b).phase = s.phase := rfl
@[simp] theorem setV_inputs (s : State) (x : Reg) (b : Byte) : (s.setV x b).inputs = s.inputs := rfl
@[simp] theorem setV_draws (s : State) (x : Reg) (b : Byte) : (s.setV x b).draws = s.draws := rfl
@[simp] theorem setV_sent (s : State) (x : Reg) (b : Byte) : (s.setV x b).sent = s.sent := rfl
@[simp] theorem setV_readByte (s : State) (x : Reg) (b : Byte) (k : Nat) : (s.setV x b).readByte k = s.readByte k := rfl

/-! ### jump -/

@[simp] theorem jump_params (s : State) (w : Word) : (s.jump w).params = s.params := rfl
@[simp] theorem jump_V (s : State) (w : Word) : (s.jump w).V = s.V := rfl
@[simp] theorem jump_I (s : State) (w : Word) : (s.jump w).I = s.I := rfl
@[simp] theorem jump_pc (s : State) (w : Word) : (s.jump w).pc = w := rfl
@[simp] theorem jump_SP (s : State) (w : Word) : (s.jump w).SP = s.SP := rfl
@[simp] theorem jump_stack (s : State) (w : Word) : (s.jump w).stack = s.stack := rfl
@[simp] theorem jump_DT (s : State) (w : Word) : (s.jump w).DT = s.DT := rfl
@[simp] theorem jump_ST (s : State) (w : Word) : (s.jump w).ST = s.ST := rfl
@[simp] theorem jump_runState (s : State) (w : Word) : (s.jump w).runState = s.runState := rfl
@[simp] theorem jump_faultCode (s : State) (w : Word) : (s.jump w).faultCode = s.faultCode := rfl
@[simp] theorem jump_faultPc (s : State) (w : Word) : (s.jump w).faultPc = s.faultPc := rfl
@[simp] theorem jump_faultWord (s : State) (w : Word) : (s.jump w).faultWord = s.faultWord := rfl
@[simp] theorem jump_mem (s : State) (w : Word) : (s.jump w).mem = s.mem := rfl
@[simp] theorem jump_phase (s : State) (w : Word) : (s.jump w).phase = s.phase := rfl
@[simp] theorem jump_inputs (s : State) (w : Word) : (s.jump w).inputs = s.inputs := rfl
@[simp] theorem jump_draws (s : State) (w : Word) : (s.jump w).draws = s.draws := rfl
@[simp] theorem jump_sent (s : State) (w : Word) : (s.jump w).sent = s.sent := rfl
@[simp] theorem jump_getV (s : State) (w : Word) (r : Reg) : (s.jump w).getV r = s.getV r := rfl
@[simp] theorem jump_readByte (s : State) (w : Word) (k : Nat) : (s.jump w).readByte k = s.readByte k := rfl

/-! ### setI -/

@[simp] theorem setI_params (s : State) (w : Word) : (s.setI w).params = s.params := rfl
@[simp] theorem setI_V (s : State) (w : Word) : (s.setI w).V = s.V := rfl
@[simp] theorem setI_I (s : State) (w : Word) : (s.setI w).I = w := rfl
@[simp] theorem setI_pc (s : State) (w : Word) : (s.setI w).pc = s.pc := rfl
@[simp] theorem setI_SP (s : State) (w : Word) : (s.setI w).SP = s.SP := rfl
@[simp] theorem setI_stack (s : State) (w : Word) : (s.setI w).stack = s.stack := rfl
@[simp] theorem setI_DT (s : State) (w : Word) : (s.setI w).DT = s.DT := rfl
@[simp] theorem setI_ST (s : State) (w : Word) : (s.setI w).ST = s.ST := rfl
@[simp] theorem setI_runState (s : State) (w : Word) : (s.setI w).runState = s.runState := rfl
@[simp] theorem setI_faultCode (s : State) (w : Word) : (s.setI w).faultCode = s.faultCode := rfl
@[simp] theorem setI_faultPc (s : State) (w : Word) : (s.setI w).faultPc = s.faultPc := rfl
@[simp] theorem setI_faultWord (s : State) (w : Word) : (s.setI w).faultWord = s.faultWord := rfl
@[simp] theorem setI_mem (s : State) (w : Word) : (s.setI w).mem = s.mem := rfl
@[simp] theorem setI_phase (s : State) (w : Word) : (s.setI w).phase = s.phase := rfl
@[simp] theorem setI_inputs (s : State) (w : Word) : (s.setI w).inputs = s.inputs := rfl
@[simp] theorem setI_draws (s : State) (w : Word) : (s.setI w).draws = s.draws := rfl
@[simp] theorem setI_sent (s : State) (w : Word) : (s.setI w).sent = s.sent := rfl
@[simp] theorem setI_getV (s : State) (w : Word) (r : Reg) : (s.setI w).getV r = s.getV r := rfl
@[simp] theorem setI_readByte (s : State) (w : Word) (k : Nat) : (s.setI w).readByte k = s.readByte k := rfl

/-! ### writeBytes -/

@[simp] theorem writeBytes_params (s : State) (n : Nat) (bs : List Byte) : (s.writeBytes n bs).params = s.params := rfl
@[simp] theorem writeBytes_V (s : State) (n : Nat) (bs : List Byte) : (s.writeBytes n bs).V = s.V := rfl
@[simp] theorem writeBytes_I (s : State) (n : Nat) (bs : List Byte) : (s.writeBytes n bs).I = s.I := rfl
@[simp] theorem writeBytes_pc (s : State) (n : Nat) (bs : List Byte) : (s.writeBytes n bs).pc = s.pc := rfl
@[simp] theorem writeBytes_SP (s : State) (n : Nat) (bs : List Byte) : (s.writeBytes n bs).SP = s.SP := rfl
@[simp] theorem writeBytes_stack (s : State) (n : Nat) (bs : List Byte) : (s.writeBytes n bs).stack = s.stack := rfl
@[simp] theorem writeBytes_DT (s : State) (n : Nat) (bs : List Byte) : (s.writeBytes n bs).DT = s.DT := rfl
@[simp] theorem writeBytes_ST (s : State) (n : Nat) (bs : List Byte) : (s.writeBytes n bs).ST = s.ST := rfl
@[simp] theorem writeBytes_runState (s : State) (n : Nat) (bs : List Byte) : (s.writeBytes n bs).runState = s.runState := rfl
@[simp] theorem writeBytes_faultCode (s : State) (n : Nat) (bs : List Byte) : (s.writeBytes n bs).faultCode = s.faultCode := rfl
@[simp] theorem writeBytes_faultPc (s : State) (n : Nat) (bs : List Byte) : (s.writeBytes n bs).faultPc = s.faultPc := rfl
@[simp] theorem writeBytes_faultWord (s : State) (n : Nat) (bs : List Byte) : (s.writeBytes n bs).faultWord = s.faultWord := rfl
@[simp] theorem writeBytes_mem (s : State) (n : Nat) (bs : List Byte) : (s.writeBytes n bs).mem = Memory.writeList s.params n bs s.mem := rfl
@[simp] theorem writeBytes_phase (s : State) (n : Nat) (bs : List Byte) : (s.writeBytes n bs).phase = s.phase := rfl
@[simp] theorem writeBytes_inputs (s : State) (n : Nat) (bs : List Byte) : (s.writeBytes n bs).inputs = s.inputs := rfl
@[simp] theorem writeBytes_draws (s : State) (n : Nat) (bs : List Byte) : (s.writeBytes n bs).draws = s.draws := rfl
@[simp] theorem writeBytes_sent (s : State) (n : Nat) (bs : List Byte) : (s.writeBytes n bs).sent = s.sent := rfl
@[simp] theorem writeBytes_getV (s : State) (n : Nat) (bs : List Byte) (r : Reg) : (s.writeBytes n bs).getV r = s.getV r := rfl

/-! ### setDT -/

@[simp] theorem setDT_params (s : State) (b : Byte) : (s.setDT b).params = s.params := rfl
@[simp] theorem setDT_V (s : State) (b : Byte) : (s.setDT b).V = s.V := rfl
@[simp] theorem setDT_I (s : State) (b : Byte) : (s.setDT b).I = s.I := rfl
@[simp] theorem setDT_pc (s : State) (b : Byte) : (s.setDT b).pc = s.pc := rfl
@[simp] theorem setDT_SP (s : State) (b : Byte) : (s.setDT b).SP = s.SP := rfl
@[simp] theorem setDT_stack (s : State) (b : Byte) : (s.setDT b).stack = s.stack := rfl
@[simp] theorem setDT_DT (s : State) (b : Byte) : (s.setDT b).DT = b := rfl
@[simp] theorem setDT_ST (s : State) (b : Byte) : (s.setDT b).ST = s.ST := rfl
@[simp] theorem setDT_runState (s : State) (b : Byte) : (s.setDT b).runState = s.runState := rfl
@[simp] theorem setDT_faultCode (s : State) (b : Byte) : (s.setDT b).faultCode = s.faultCode := rfl
@[simp] theorem setDT_faultPc (s : State) (b : Byte) : (s.setDT b).faultPc = s.faultPc := rfl
@[simp] theorem setDT_faultWord (s : State) (b : Byte) : (s.setDT b).faultWord = s.faultWord := rfl
@[simp] theorem setDT_mem (s : State) (b : Byte) : (s.setDT b).mem = s.mem := rfl
@[simp] theorem setDT_phase (s : State) (b : Byte) : (s.setDT b).phase = s.phase := rfl
@[simp] theorem setDT_inputs (s : State) (b : Byte) : (s.setDT b).inputs = s.inputs := rfl
@[simp] theorem setDT_draws (s : State) (b : Byte) : (s.setDT b).draws = s.draws := rfl
@[simp] theorem setDT_sent (s : State) (b : Byte) : (s.setDT b).sent = s.sent := rfl
@[simp] theorem setDT_getV (s : State) (b : Byte) (r : Reg) : (s.setDT b).getV r = s.getV r := rfl
@[simp] theorem setDT_readByte (s : State) (b : Byte) (k : Nat) : (s.setDT b).readByte k = s.readByte k := rfl

/-! ### setST -/

@[simp] theorem setST_params (s : State) (b : Byte) : (s.setST b).params = s.params := rfl
@[simp] theorem setST_V (s : State) (b : Byte) : (s.setST b).V = s.V := rfl
@[simp] theorem setST_I (s : State) (b : Byte) : (s.setST b).I = s.I := rfl
@[simp] theorem setST_pc (s : State) (b : Byte) : (s.setST b).pc = s.pc := rfl
@[simp] theorem setST_SP (s : State) (b : Byte) : (s.setST b).SP = s.SP := rfl
@[simp] theorem setST_stack (s : State) (b : Byte) : (s.setST b).stack = s.stack := rfl
@[simp] theorem setST_DT (s : State) (b : Byte) : (s.setST b).DT = s.DT := rfl
@[simp] theorem setST_ST (s : State) (b : Byte) : (s.setST b).ST = b := rfl
@[simp] theorem setST_runState (s : State) (b : Byte) : (s.setST b).runState = s.runState := rfl
@[simp] theorem setST_faultCode (s : State) (b : Byte) : (s.setST b).faultCode = s.faultCode := rfl
@[simp] theorem setST_faultPc (s : State) (b : Byte) : (s.setST b).faultPc = s.faultPc := rfl
@[simp] theorem setST_faultWord (s : State) (b : Byte) : (s.setST b).faultWord = s.faultWord := rfl
@[simp] theorem setST_mem (s : State) (b : Byte) : (s.setST b).mem = s.mem := rfl
@[simp] theorem setST_phase (s : State) (b : Byte) : (s.setST b).phase = s.phase := rfl
@[simp] theorem setST_inputs (s : State) (b : Byte) : (s.setST b).inputs = s.inputs := rfl
@[simp] theorem setST_draws (s : State) (b : Byte) : (s.setST b).draws = s.draws := rfl
@[simp] theorem setST_sent (s : State) (b : Byte) : (s.setST b).sent = s.sent := rfl
@[simp] theorem setST_getV (s : State) (b : Byte) (r : Reg) : (s.setST b).getV r = s.getV r := rfl
@[simp] theorem setST_readByte (s : State) (b : Byte) (k : Nat) : (s.setST b).readByte k = s.readByte k := rfl

/-! ### send -/

@[simp] theorem send_params (s : State) (t : Transaction) : (s.send t).params = s.params := rfl
@[simp] theorem send_V (s : State) (t : Transaction) : (s.send t).V = s.V := rfl
@[simp] theorem send_I (s : State) (t : Transaction) : (s.send t).I = s.I := rfl
@[simp] theorem send_pc (s : State) (t : Transaction) : (s.send t).pc = s.pc := rfl
@[simp] theorem send_SP (s : State) (t : Transaction) : (s.send t).SP = s.SP := rfl
@[simp] theorem send_stack (s : State) (t : Transaction) : (s.send t).stack = s.stack := rfl
@[simp] theorem send_DT (s : State) (t : Transaction) : (s.send t).DT = s.DT := rfl
@[simp] theorem send_ST (s : State) (t : Transaction) : (s.send t).ST = s.ST := rfl
@[simp] theorem send_runState (s : State) (t : Transaction) : (s.send t).runState = s.runState := rfl
@[simp] theorem send_faultCode (s : State) (t : Transaction) : (s.send t).faultCode = s.faultCode := rfl
@[simp] theorem send_faultPc (s : State) (t : Transaction) : (s.send t).faultPc = s.faultPc := rfl
@[simp] theorem send_faultWord (s : State) (t : Transaction) : (s.send t).faultWord = s.faultWord := rfl
@[simp] theorem send_mem (s : State) (t : Transaction) : (s.send t).mem = s.mem := rfl
@[simp] theorem send_phase (s : State) (t : Transaction) : (s.send t).phase = s.phase := rfl
@[simp] theorem send_inputs (s : State) (t : Transaction) : (s.send t).inputs = s.inputs := rfl
@[simp] theorem send_draws (s : State) (t : Transaction) : (s.send t).draws = s.draws := rfl
@[simp] theorem send_sent (s : State) (t : Transaction) : (s.send t).sent = s.sent ++ [t] := rfl
@[simp] theorem send_getV (s : State) (t : Transaction) (r : Reg) : (s.send t).getV r = s.getV r := rfl
@[simp] theorem send_readByte (s : State) (t : Transaction) (k : Nat) : (s.send t).readByte k = s.readByte k := rfl

/-! ### setPhase -/

@[simp] theorem setPhase_params (s : State) (ph : Phase) : (s.setPhase ph).params = s.params := rfl
@[simp] theorem setPhase_V (s : State) (ph : Phase) : (s.setPhase ph).V = s.V := rfl
@[simp] theorem setPhase_I (s : State) (ph : Phase) : (s.setPhase ph).I = s.I := rfl
@[simp] theorem setPhase_pc (s : State) (ph : Phase) : (s.setPhase ph).pc = s.pc := rfl
@[simp] theorem setPhase_SP (s : State) (ph : Phase) : (s.setPhase ph).SP = s.SP := rfl
@[simp] theorem setPhase_stack (s : State) (ph : Phase) : (s.setPhase ph).stack = s.stack := rfl
@[simp] theorem setPhase_DT (s : State) (ph : Phase) : (s.setPhase ph).DT = s.DT := rfl
@[simp] theorem setPhase_ST (s : State) (ph : Phase) : (s.setPhase ph).ST = s.ST := rfl
@[simp] theorem setPhase_runState (s : State) (ph : Phase) : (s.setPhase ph).runState = s.runState := rfl
@[simp] theorem setPhase_faultCode (s : State) (ph : Phase) : (s.setPhase ph).faultCode = s.faultCode := rfl
@[simp] theorem setPhase_faultPc (s : State) (ph : Phase) : (s.setPhase ph).faultPc = s.faultPc := rfl
@[simp] theorem setPhase_faultWord (s : State) (ph : Phase) : (s.setPhase ph).faultWord = s.faultWord := rfl
@[simp] theorem setPhase_mem (s : State) (ph : Phase) : (s.setPhase ph).mem = s.mem := rfl
@[simp] theorem setPhase_phase (s : State) (ph : Phase) : (s.setPhase ph).phase = ph := rfl
@[simp] theorem setPhase_inputs (s : State) (ph : Phase) : (s.setPhase ph).inputs = s.inputs := rfl
@[simp] theorem setPhase_draws (s : State) (ph : Phase) : (s.setPhase ph).draws = s.draws := rfl
@[simp] theorem setPhase_sent (s : State) (ph : Phase) : (s.setPhase ph).sent = s.sent := rfl
@[simp] theorem setPhase_getV (s : State) (ph : Phase) (r : Reg) : (s.setPhase ph).getV r = s.getV r := rfl
@[simp] theorem setPhase_readByte (s : State) (ph : Phase) (k : Nat) : (s.setPhase ph).readByte k = s.readByte k := rfl

/-! ### halt -/

@[simp] theorem halt_params (s : State) : (s.halt).params = s.params := rfl
@[simp] theorem halt_V (s : State) : (s.halt).V = s.V := rfl
@[simp] theorem halt_I (s : State) : (s.halt).I = s.I := rfl
@[simp] theorem halt_pc (s : State) : (s.halt).pc = s.pc := rfl
@[simp] theorem halt_SP (s : State) : (s.halt).SP = s.SP := rfl
@[simp] theorem halt_stack (s : State) : (s.halt).stack = s.stack := rfl
@[simp] theorem halt_DT (s : State) : (s.halt).DT = s.DT := rfl
@[simp] theorem halt_ST (s : State) : (s.halt).ST = s.ST := rfl
@[simp] theorem halt_runState (s : State) : (s.halt).runState = .halted := rfl
@[simp] theorem halt_faultCode (s : State) : (s.halt).faultCode = s.faultCode := rfl
@[simp] theorem halt_faultPc (s : State) : (s.halt).faultPc = s.faultPc := rfl
@[simp] theorem halt_faultWord (s : State) : (s.halt).faultWord = s.faultWord := rfl
@[simp] theorem halt_mem (s : State) : (s.halt).mem = s.mem := rfl
@[simp] theorem halt_phase (s : State) : (s.halt).phase = .between := rfl
@[simp] theorem halt_inputs (s : State) : (s.halt).inputs = s.inputs := rfl
@[simp] theorem halt_draws (s : State) : (s.halt).draws = s.draws := rfl
@[simp] theorem halt_sent (s : State) : (s.halt).sent = s.sent := rfl
@[simp] theorem halt_getV (s : State) (r : Reg) : (s.halt).getV r = s.getV r := rfl
@[simp] theorem halt_readByte (s : State) (k : Nat) : (s.halt).readByte k = s.readByte k := rfl

/-! ### redraw -/

@[simp] theorem redraw_params (s : State) : (s.redraw).params = s.params := rfl
@[simp] theorem redraw_V (s : State) : (s.redraw).V = s.V := rfl
@[simp] theorem redraw_I (s : State) : (s.redraw).I = s.I := rfl
@[simp] theorem redraw_pc (s : State) : (s.redraw).pc = s.pc := rfl
@[simp] theorem redraw_SP (s : State) : (s.redraw).SP = s.SP := rfl
@[simp] theorem redraw_stack (s : State) : (s.redraw).stack = s.stack := rfl
@[simp] theorem redraw_DT (s : State) : (s.redraw).DT = s.DT := rfl
@[simp] theorem redraw_ST (s : State) : (s.redraw).ST = s.ST := rfl
@[simp] theorem redraw_runState (s : State) : (s.redraw).runState = s.runState := rfl
@[simp] theorem redraw_faultCode (s : State) : (s.redraw).faultCode = s.faultCode := rfl
@[simp] theorem redraw_faultPc (s : State) : (s.redraw).faultPc = s.faultPc := rfl
@[simp] theorem redraw_faultWord (s : State) : (s.redraw).faultWord = s.faultWord := rfl
@[simp] theorem redraw_mem (s : State) : (s.redraw).mem = s.mem := rfl
@[simp] theorem redraw_phase (s : State) : (s.redraw).phase = s.phase := rfl
@[simp] theorem redraw_inputs (s : State) : (s.redraw).inputs = Config.inputs s.draws := rfl
@[simp] theorem redraw_draws (s : State) : (s.redraw).draws = s.draws + 1 := rfl
@[simp] theorem redraw_sent (s : State) : (s.redraw).sent = s.sent := rfl
@[simp] theorem redraw_getV (s : State) (r : Reg) : (s.redraw).getV r = s.getV r := rfl
@[simp] theorem redraw_readByte (s : State) (k : Nat) : (s.redraw).readByte k = s.readByte k := rfl

/-! ### raise -/

@[simp] theorem raise_params (s : State) (c : Condition) (w : Word) : (raise c w s).params = s.params := rfl
@[simp] theorem raise_V (s : State) (c : Condition) (w : Word) : (raise c w s).V = s.V := rfl
@[simp] theorem raise_I (s : State) (c : Condition) (w : Word) : (raise c w s).I = s.I := rfl
@[simp] theorem raise_pc (s : State) (c : Condition) (w : Word) : (raise c w s).pc = s.pc := rfl
@[simp] theorem raise_SP (s : State) (c : Condition) (w : Word) : (raise c w s).SP = s.SP := rfl
@[simp] theorem raise_stack (s : State) (c : Condition) (w : Word) : (raise c w s).stack = s.stack := rfl
@[simp] theorem raise_DT (s : State) (c : Condition) (w : Word) : (raise c w s).DT = s.DT := rfl
@[simp] theorem raise_ST (s : State) (c : Condition) (w : Word) : (raise c w s).ST = s.ST := rfl
@[simp] theorem raise_runState (s : State) (c : Condition) (w : Word) : (raise c w s).runState = .faulted := rfl
@[simp] theorem raise_faultCode (s : State) (c : Condition) (w : Word) : (raise c w s).faultCode = c.code := rfl
@[simp] theorem raise_faultPc (s : State) (c : Condition) (w : Word) : (raise c w s).faultPc = s.pc := rfl
@[simp] theorem raise_faultWord (s : State) (c : Condition) (w : Word) : (raise c w s).faultWord = w := rfl
@[simp] theorem raise_mem (s : State) (c : Condition) (w : Word) : (raise c w s).mem = s.mem := rfl
@[simp] theorem raise_phase (s : State) (c : Condition) (w : Word) : (raise c w s).phase = .between := rfl
@[simp] theorem raise_inputs (s : State) (c : Condition) (w : Word) : (raise c w s).inputs = s.inputs := rfl
@[simp] theorem raise_draws (s : State) (c : Condition) (w : Word) : (raise c w s).draws = s.draws := rfl
@[simp] theorem raise_sent (s : State) (c : Condition) (w : Word) : (raise c w s).sent = s.sent := rfl
@[simp] theorem raise_getV (s : State) (c : Condition) (w : Word) (r : Reg) : (raise c w s).getV r = s.getV r := rfl
@[simp] theorem raise_readByte (s : State) (c : Condition) (w : Word) (k : Nat) : (raise c w s).readByte k = s.readByte k := rfl

/-! ### loadRegs -/

@[simp] theorem loadRegs_params (s : State) (x : Reg) : (s.loadRegs x).params = s.params := rfl
@[simp] theorem loadRegs_I (s : State) (x : Reg) : (s.loadRegs x).I = s.I := rfl
@[simp] theorem loadRegs_pc (s : State) (x : Reg) : (s.loadRegs x).pc = s.pc := rfl
@[simp] theorem loadRegs_SP (s : State) (x : Reg) : (s.loadRegs x).SP = s.SP := rfl
@[simp] theorem loadRegs_stack (s : State) (x : Reg) : (s.loadRegs x).stack = s.stack := rfl
@[simp] theorem loadRegs_DT (s : State) (x : Reg) : (s.loadRegs x).DT = s.DT := rfl
@[simp] theorem loadRegs_ST (s : State) (x : Reg) : (s.loadRegs x).ST = s.ST := rfl
@[simp] theorem loadRegs_runState (s : State) (x : Reg) : (s.loadRegs x).runState = s.runState := rfl
@[simp] theorem loadRegs_faultCode (s : State) (x : Reg) : (s.loadRegs x).faultCode = s.faultCode := rfl
@[simp] theorem loadRegs_faultPc (s : State) (x : Reg) : (s.loadRegs x).faultPc = s.faultPc := rfl
@[simp] theorem loadRegs_faultWord (s : State) (x : Reg) : (s.loadRegs x).faultWord = s.faultWord := rfl
@[simp] theorem loadRegs_mem (s : State) (x : Reg) : (s.loadRegs x).mem = s.mem := rfl
@[simp] theorem loadRegs_phase (s : State) (x : Reg) : (s.loadRegs x).phase = s.phase := rfl
@[simp] theorem loadRegs_inputs (s : State) (x : Reg) : (s.loadRegs x).inputs = s.inputs := rfl
@[simp] theorem loadRegs_draws (s : State) (x : Reg) : (s.loadRegs x).draws = s.draws := rfl
@[simp] theorem loadRegs_sent (s : State) (x : Reg) : (s.loadRegs x).sent = s.sent := rfl
@[simp] theorem loadRegs_readByte (s : State) (x : Reg) (k : Nat) : (s.loadRegs x).readByte k = s.readByte k := rfl

/-! ### hostRun -/

@[simp] theorem hostRun_params (s : State) : (s.hostRun).params = s.params := rfl
@[simp] theorem hostRun_V (s : State) : (s.hostRun).V = s.V := rfl
@[simp] theorem hostRun_I (s : State) : (s.hostRun).I = s.I := rfl
@[simp] theorem hostRun_pc (s : State) : (s.hostRun).pc = progBase := rfl
@[simp] theorem hostRun_SP (s : State) : (s.hostRun).SP = s.SP := rfl
@[simp] theorem hostRun_stack (s : State) : (s.hostRun).stack = s.stack := rfl
@[simp] theorem hostRun_DT (s : State) : (s.hostRun).DT = s.DT := rfl
@[simp] theorem hostRun_ST (s : State) : (s.hostRun).ST = s.ST := rfl
@[simp] theorem hostRun_runState (s : State) : (s.hostRun).runState = .running := rfl
@[simp] theorem hostRun_faultCode (s : State) : (s.hostRun).faultCode = s.faultCode := rfl
@[simp] theorem hostRun_faultPc (s : State) : (s.hostRun).faultPc = s.faultPc := rfl
@[simp] theorem hostRun_faultWord (s : State) : (s.hostRun).faultWord = s.faultWord := rfl
@[simp] theorem hostRun_mem (s : State) : (s.hostRun).mem = s.mem := rfl
@[simp] theorem hostRun_phase (s : State) : (s.hostRun).phase = s.phase := rfl
@[simp] theorem hostRun_inputs (s : State) : (s.hostRun).inputs = s.inputs := rfl
@[simp] theorem hostRun_draws (s : State) : (s.hostRun).draws = s.draws := rfl
@[simp] theorem hostRun_sent (s : State) : (s.hostRun).sent = s.sent := rfl
@[simp] theorem hostRun_getV (s : State) (r : Reg) : (s.hostRun).getV r = s.getV r := rfl
@[simp] theorem hostRun_readByte (s : State) (k : Nat) : (s.hostRun).readByte k = s.readByte k := rfl

end Sys2Proof.Machine
end

