-- ==== Sys2Proof/Laws/Memory.lean ====
section
/-! SUPPORT. The laws of memory (spec/20_memory.md R45, R52): a read after a write to the same address gives what was
written, a write leaves every other address alone, and every operation keeps the canonical form. -/

namespace Sys2Proof.Machine

variable (p : Params)

/-! ### Reads after writes, for every memory, canonical or not -/

theorem read_erase_self (a : Nat) : ∀ m : List Host.Cell, Memory.read p (Memory.erase a m) a = resetByte p a
  | [] => rfl
  | (a', b') :: m => by
    unfold Memory.erase
    split
    · exact read_erase_self a m
    · rename_i h
      simp only [Memory.read, h, if_false, read_erase_self a m]

theorem read_erase_of_ne {a c : Nat} (h : c ≠ a) : ∀ m : List Host.Cell,
    Memory.read p (Memory.erase a m) c = Memory.read p m c
  | [] => rfl
  | (a', b') :: m => by
    unfold Memory.erase
    split
    · rename_i e
      subst e
      simp only [Memory.read, h, if_false, read_erase_of_ne h m]
    · simp only [Memory.read, read_erase_of_ne h m]

theorem read_insert_self (a : Nat) (b : Byte) : ∀ m : List Host.Cell,
    Memory.read p (Memory.insert a b (Memory.erase a m)) a = b
  | [] => by simp [Memory.erase, Memory.insert, Memory.read]
  | (a', b') :: m => by
    unfold Memory.erase
    split
    · exact read_insert_self a b m
    · rename_i h
      unfold Memory.insert
      split
      · simp [Memory.read]
      · simp only [Memory.read, h, if_false, read_insert_self a b m]

theorem read_insert_of_ne {a c : Nat} (b : Byte) (h : c ≠ a) : ∀ m : List Host.Cell,
    Memory.read p (Memory.insert a b m) c = Memory.read p m c
  | [] => by simp [Memory.insert, Memory.read, h]
  | (a', b') :: m => by
    unfold Memory.insert
    split
    · simp [Memory.read, h]
    · simp only [Memory.read, read_insert_of_ne b h m]

@[simp] theorem read_write_self (a : Nat) (b : Byte) (m : List Host.Cell) :
    Memory.read p (Memory.write p a b m) a = b := by
  unfold Memory.write
  split
  · simp_all [read_erase_self]
  · exact read_insert_self p a b m

theorem read_write_of_ne {a c : Nat} (b : Byte) (m : List Host.Cell) (h : c ≠ a) :
    Memory.read p (Memory.write p a b m) c = Memory.read p m c := by
  unfold Memory.write
  split
  · exact read_erase_of_ne p h m
  · rw [read_insert_of_ne p b h, read_erase_of_ne p h]

theorem read_writeList_outside {c : Nat} : ∀ (bs : List Byte) (a : Nat) (m : List Host.Cell),
    (c < a ∨ a + bs.length ≤ c) → Memory.read p (Memory.writeList p a bs m) c = Memory.read p m c
  | [], _, _, _ => rfl
  | b :: bs, a, m, h => by
    simp only [List.length_cons] at h
    rw [Memory.writeList, read_writeList_outside bs (a + 1) _ (by omega), read_write_of_ne p b m (by omega)]

theorem read_writeList_inside : ∀ (bs : List Byte) (a : Nat) (m : List Host.Cell) (k : Nat) (h : k < bs.length),
    Memory.read p (Memory.writeList p a bs m) (a + k) = bs[k]
  | b :: bs, a, m, 0, _ => by
    rw [Memory.writeList, Nat.add_zero, read_writeList_outside p bs (a + 1) _ (by omega)]
    simp
  | b :: bs, a, m, k + 1, h => by
    have := read_writeList_inside bs (a + 1) (Memory.write p a b m) k (by simpa using h)
    rw [Memory.writeList, show a + (k + 1) = a + 1 + k by omega, this]
    rfl

/-- The block read is the list of its bytes, row 0 first. -/
theorem readList_eq_map (m : List Host.Cell) : ∀ (n a : Nat),
    Memory.readList p m a n = (List.range n).map fun k => Memory.read p m (a + k)
  | 0, _ => rfl
  | n + 1, a => by
    rw [Memory.readList, readList_eq_map m n (a + 1), List.range_succ_eq_map]
    simp [Function.comp_def, Nat.add_comm, Nat.add_left_comm]

/-! ### The canonical form -/

theorem startsAbove_of_le {a c : Nat} (h : a ≤ c) :
    ∀ {m : List Host.Cell}, Memory.startsAbove c m = true → Memory.startsAbove a m = true
  | [], _ => rfl
  | _ :: _, hm => by simp [Memory.startsAbove] at hm ⊢; omega

theorem wf_cons_iff (a : Nat) (b : Byte) (m : List Host.Cell) :
    Memory.wf p ((a, b) :: m) = true ↔
      a < p.memSize ∧ b ≠ resetByte p a ∧ Memory.startsAbove a m = true ∧ Memory.wf p m = true := by
  simp [Memory.wf, and_assoc]

theorem startsAbove_erase {a c : Nat} : ∀ {m : List Host.Cell}, Memory.wf p m = true →
    Memory.startsAbove c m = true → Memory.startsAbove c (Memory.erase a m) = true
  | [], _, _ => rfl
  | (a', b') :: m, hw, hs => by
    obtain ⟨-, -, ht, hw'⟩ := (wf_cons_iff p a' b' m).mp hw
    have hlt : c < a' := by simpa [Memory.startsAbove] using hs
    unfold Memory.erase
    split
    · exact startsAbove_erase hw' (startsAbove_of_le hlt.le ht)
    · simpa [Memory.startsAbove] using hlt

theorem wf_erase (a : Nat) : ∀ {m : List Host.Cell}, Memory.wf p m = true → Memory.wf p (Memory.erase a m) = true
  | [], _ => rfl
  | (a', b') :: m, hw => by
    obtain ⟨ha, hb, ht, hw'⟩ := (wf_cons_iff p a' b' m).mp hw
    unfold Memory.erase
    split
    · exact wf_erase a hw'
    · exact (wf_cons_iff p a' b' _).mpr ⟨ha, hb, startsAbove_erase p hw' ht, wf_erase a hw'⟩

theorem startsAbove_insert {a c : Nat} {b : Byte} (hc : c < a) : ∀ {m : List Host.Cell},
    Memory.startsAbove c m = true → Memory.startsAbove c (Memory.insert a b m) = true
  | [], _ => by simpa [Memory.insert, Memory.startsAbove] using hc
  | (a', b') :: m, hs => by
    unfold Memory.insert
    split
    · simpa [Memory.startsAbove] using hc
    · simpa [Memory.startsAbove] using hs

theorem wf_insert_erase {a : Nat} {b : Byte} (ha : a < p.memSize) (hb : b ≠ resetByte p a) :
    ∀ {m : List Host.Cell}, Memory.wf p m = true → Memory.wf p (Memory.insert a b (Memory.erase a m)) = true
  | [], _ => by simp [Memory.erase, Memory.insert, Memory.wf, Memory.startsAbove, ha, hb]
  | (a', b') :: m, hw => by
    obtain ⟨ha', hb', ht, hw'⟩ := (wf_cons_iff p a' b' m).mp hw
    have hwe := wf_erase p a hw'
    have hse := startsAbove_erase (a := a) p hw' ht
    unfold Memory.erase
    split
    · exact wf_insert_erase ha hb hw'
    · unfold Memory.insert
      split
      · exact (wf_cons_iff p a b _).mpr
          ⟨ha, hb, by simpa [Memory.startsAbove], (wf_cons_iff p a' b' _).mpr ⟨ha', hb', hse, hwe⟩⟩
      · exact (wf_cons_iff p a' b' _).mpr ⟨ha', hb', startsAbove_insert (by omega) hse, wf_insert_erase ha hb hw'⟩

/-- A write below `MEM_SIZE` keeps the canonical form. -/
theorem wf_write {a : Nat} {b : Byte} {m : List Host.Cell} (ha : a < p.memSize) (hw : Memory.wf p m = true) :
    Memory.wf p (Memory.write p a b m) = true := by
  unfold Memory.write
  split
  · exact wf_erase p a hw
  · exact wf_insert_erase p ha ‹_› hw

/-- A block written wholly below `MEM_SIZE` keeps the canonical form. -/
theorem wf_writeList : ∀ {bs : List Byte} {a : Nat} {m : List Host.Cell}, a + bs.length ≤ p.memSize →
    Memory.wf p m = true → Memory.wf p (Memory.writeList p a bs m) = true
  | [], _, _, _, hw => hw
  | _ :: bs, _, _, h, hw =>
    wf_writeList (bs := bs) (by simp at h; omega) (wf_write p (by simp at h; omega) hw)

/-! ### The same, of states -/

theorem readByte_writeBytes_inside (s : State) (a : Nat) (bs : List Byte) (k : Nat) (h : k < bs.length) :
    (s.writeBytes a bs).readByte (a + k) = bs[k] := read_writeList_inside s.params bs a s.mem k h

theorem readByte_writeBytes_outside (s : State) (a : Nat) (bs : List Byte) {c : Nat}
    (h : c < a ∨ a + bs.length ≤ c) : (s.writeBytes a bs).readByte c = s.readByte c :=
  read_writeList_outside s.params bs a s.mem h

theorem readBlock_eq_map (s : State) (n : Nat) :
    s.readBlock n = (List.range n).map fun k => s.readByte (s.I.toNat + k) := readList_eq_map s.params s.mem n _

/-- The memory of every reset state is canonical: it lists nothing. -/
theorem wf_resetWith : Memory.wf p (State.resetWith p).mem = true := rfl

end Sys2Proof.Machine
end

