-- ==== Sys2Proof/Laws/Registers.lean ====
section
/-! SUPPORT. Reads after writes of general registers (spec/10_state.md R10), and the register blocks (45 R132, R134). -/

namespace Sys2Proof.Machine

@[simp] theorem getV_setV_self (s : State) (x : Reg) (b : Byte) : (s.setV x b).getV x = b := by
  simp [State.getV, State.setV]

theorem getV_setV_of_ne (s : State) {x r : Reg} (b : Byte) (h : r ≠ x) : (s.setV x b).getV r = s.getV r := by
  have h' : x.toNat ≠ r.toNat := fun e => h (BitVec.eq_of_toNat_eq e).symm
  simp [State.getV, State.setV, h']

theorem getV_setV (s : State) (x r : Reg) (b : Byte) :
    (s.setV x b).getV r = if r = x then b else s.getV r := by
  by_cases h : r = x
  · subst h; simp
  · simp [h, getV_setV_of_ne]

/-- The flag is what `VF` holds after result and flag are written, also when `x = 15` (00_scope R8). -/
@[simp] theorem getV_setFlag (s : State) (c : Bool) (r : Reg) :
    (s.setFlag c).getV r = if r = VF then flagByte c else s.getV r := getV_setV s VF r _

theorem getV_loadRegs (s : State) (x r : Reg) :
    (s.loadRegs x).getV r = if r ≤ x then s.readByte (s.I.toNat + r.toNat) else s.getV r := by
  simp [State.getV, State.loadRegs, BitVec.le_def]

theorem length_regBlock (s : State) (x : Reg) : (s.regBlock x).length = x.toNat + 1 := by
  have := x.isLt
  simp [State.regBlock, blockLen]; omega

theorem getElem_regBlock (s : State) (x r : Reg) (h : r.toNat < (s.regBlock x).length) :
    (s.regBlock x)[r.toNat] = s.getV r := by
  simp [State.regBlock, State.getV]

/-- What the registers hold after a result and its flag are written (00_scope R8). -/
@[simp] theorem getV_resultThenFlag (s : State) (x r : Reg) (b : Byte) (c : Bool) :
    (s.resultThenFlag x b c).getV r = if r = VF then flagByte c else if r = x then b else s.getV r := by
  simp [State.resultThenFlag, State.advance, getV_setV]

/-- "A flag write always stores exactly 0 or 1" (10_state R12). -/
theorem flagByte_bit (c : Bool) : flagByte c = 0 ∨ flagByte c = 1 := by cases c <;> simp [flagByte]

/-- `BlockCheck` as numbers (20_memory R50). -/
theorem blockFits_iff (s : State) (len : Nat) :
    s.blockFits len = true ↔ len = 0 ∨ s.I.toNat + len ≤ s.params.memSize := by simp [State.blockFits]

/-- Key sensing as numbers (47_keypad_timers R150, R152). -/
theorem keyPressed_iff (s : State) (x : Reg) :
    s.keyPressed x = true ↔ ∃ k ∈ s.inputs.drained, k.toNat = (s.getV x).toNat := by
  simp only [State.keyPressed, List.any_eq_true, beq_iff_eq]
  refine exists_congr fun k => and_congr_right fun _ => ?_
  have hk := k.isLt
  rw [← BitVec.toNat_inj, keyByte, BitVec.toNat_setWidth, Nat.mod_eq_of_lt (by omega)]

end Sys2Proof.Machine
end

