-- ==== Sys2Proof/Laws/Frame.lean ====
section
/-! SUPPORT. Frames: what each primitive update leaves unchanged, and how frames compose. The frame of an instruction is
the composition of the frames of the updates its meaning makes. -/

namespace Sys2Proof.Machine

variable {l l' : List Part} {s t u : State}

theorem Same.refl (s : State) (p : Part) : Same s s p := by cases p <;> simp [Same]

theorem Same.trans {p : Part} (h : Same s t p) (h' : Same t u p) : Same s u p := by
  cases p <;> simp_all [Same]

theorem Only.refl (l : List Part) (s : State) : Only l s s := fun p _ => Same.refl s p

theorem Only.mono (h : Only l s t) (hl : l ⊆ l') : Only l' s t := fun p hp => h p fun hm => hp (hl hm)

theorem Only.append (h : Only l s t) (h' : Only l' t u) : Only (l ++ l') s u := fun p hp =>
  (h p fun hm => hp (List.mem_append_left _ hm)).trans (h' p fun hm => hp (List.mem_append_right _ hm))

/-- Two updates in a row change only what either may change. -/
theorem Only.trans (h : Only l s t) (h' : Only l t u) : Only l s u := fun p hp => (h p hp).trans (h' p hp)

/-- One more update of a part that is listed anyway. -/
theorem Only.then (h : Only l s t) (h' : Only l' t u) (hl : l' ⊆ l) : Only l s u := h.trans (h'.mono hl)

theorem only_jump (s : State) (w : Word) : Only [.pc] s (s.jump w) := by
  intro p hp; cases p <;> simp_all [Same]

theorem only_advance (s : State) : Only [.pc] s s.advance := only_jump s _

theorem only_skipIf (s : State) (c : Bool) : Only [.pc] s (s.skipIf c) := by
  unfold State.skipIf; split
  · exact only_jump s _
  · exact only_advance s

theorem only_setV (s : State) (x : Reg) (b : Byte) : Only [.reg x] s (s.setV x b) := by
  intro p hp
  cases p <;> simp_all [Same, getV_setV, State.readByte]

theorem only_setFlag (s : State) (c : Bool) : Only [.reg VF] s (s.setFlag c) := only_setV s VF _

theorem only_resultThenFlag (s : State) (x : Reg) (b : Byte) (c : Bool) :
    Only [.pc, .reg x, .reg VF] s (s.resultThenFlag x b c) :=
  (((only_setV s x b).mono (by simp)).then (only_setFlag _ c) (by simp)).then (only_advance _) (by simp)

theorem only_setI (s : State) (w : Word) : Only [.I] s (s.setI w) := by
  intro p hp; cases p <;> simp_all [Same]

theorem only_setDT (s : State) (b : Byte) : Only [.DT] s (s.setDT b) := by
  intro p hp; cases p <;> simp_all [Same]

theorem only_setST (s : State) (b : Byte) : Only [.ST] s (s.setST b) := by
  intro p hp; cases p <;> simp_all [Same]

theorem only_tickTimers (s : State) : Only [.DT, .ST] s s.tickTimers :=
  ((only_setDT s _).mono (by simp)).then (only_setST _ _) (by simp)

theorem only_send (s : State) (x : Transaction) : Only [.sent] s (s.send x) := by
  intro p hp; cases p <;> simp_all [Same]

theorem only_setPhase (s : State) (ph : Phase) : Only [.phase] s (s.setPhase ph) := by
  intro p hp; cases p <;> simp_all [Same]

theorem only_halt (s : State) : Only [.runState, .phase] s s.halt := by
  intro p hp; cases p <;> simp_all [Same, State.getV, State.readByte]

theorem only_redraw (s : State) : Only [.inputs, .draws] s s.redraw := by
  intro p hp; cases p <;> simp_all [Same]

theorem only_raise (c : Condition) (w : Word) (s : State) :
    Only [.runState, .faultRecord, .phase] s (raise c w s) := by
  intro p hp; cases p <;> simp_all [Same]

/-- Fault entry is precise (60_exceptions R170). -/
theorem faultedFrom_raise (c : Condition) (w : Word) (s : State) : FaultedFrom c w s (raise c w s) :=
  ⟨rfl, rfl, rfl, rfl, only_raise c w s⟩

theorem only_writeBytes (s : State) (a : Nat) (bs : List Byte) :
    Only ((List.range bs.length).map fun k => .byte (a + k)) s (s.writeBytes a bs) := by
  intro p hp
  cases p with
  | byte c =>
    refine readByte_writeBytes_outside s a bs ?_
    by_contra hc
    exact hp (List.mem_map.mpr ⟨c - a, List.mem_range.mpr (by omega), by congr 1; omega⟩)
  | _ => simp [Same, State.getV]

theorem only_writeBlock (s : State) (bs : List Byte) : Only (blockParts s bs.length) s (s.writeBlock bs) :=
  only_writeBytes s _ bs

theorem only_loadRegs (s : State) (x : Reg) : Only (regParts x) s (s.loadRegs x) := by
  intro p hp
  cases p with
  | reg r =>
    have hr : ¬ r ≤ x := fun h => hp (List.mem_map.mpr
      ⟨r.toNat, List.mem_range.mpr (Nat.lt_succ_of_le (BitVec.le_def.mp h)), by simp⟩)
    simp [Same, getV_loadRegs, hr]
  | _ => simp [Same, State.readByte]

/-- What a push does, where it answers a state (10_state R19). -/
theorem push_eq_some {v : Word} (h : s.push v = some t) :
    ∃ k : Fin 16, k.val = s.SP.val ∧ s.SP < s.params.stackLimit ∧ t.stack[k.val] = v ∧ t.SP.val = s.SP.val + 1 ∧
      Only [.SP, .slot k] s t := by
  unfold State.push at h
  split at h
  · rename_i hlt
    obtain rfl := Option.some.inj h
    have hk : s.SP.val < 16 :=
      Nat.lt_of_lt_of_le (Fin.lt_def.mp hlt) (Nat.le_of_lt_succ s.params.stackLimit.isLt)
    refine ⟨⟨s.SP.val, hk⟩, rfl, hlt, by simp, rfl, ?_⟩
    intro p hp
    cases p with
    | slot k =>
      have hne : s.SP.val ≠ k.val := fun e => by
        apply hp; simp; exact Fin.ext e.symm
      simp [Same, hne]
    | _ => simp_all [Same, State.getV, State.readByte]
  · cases h

/-- A push answers a state exactly below the limit (10_state R19). -/
theorem push_isSome_iff (v : Word) : (s.push v).isSome ↔ s.SP < s.params.stackLimit := by
  unfold State.push; split <;> simp_all

/-- What a pop does, where it answers (10_state R19). -/
theorem pop_eq_some {w : Word} (h : s.pop = some (w, t)) :
    ∃ k : Fin 16, k.val + 1 = s.SP.val ∧ w = s.stack[k.val] ∧ t.SP.val = k.val ∧ Only [.SP] s t := by
  unfold State.pop at h
  split at h
  · rename_i hlt
    obtain ⟨rfl, rfl⟩ := Prod.mk.inj (Option.some.inj h)
    refine ⟨⟨s.SP.val - 1, by omega⟩, by simp; omega, rfl, rfl, ?_⟩
    intro p hp
    cases p <;> simp_all [Same, State.getV, State.readByte]
  · cases h

/-- A pop answers exactly on a stack that is not empty (10_state R19). -/
theorem pop_isSome_iff : s.pop.isSome ↔ 0 < s.SP.val := by
  unfold State.pop; split <;> simp_all

/-- The fault record and the parameters are no instruction's to write but by fault entry: `Only` lists say so. -/
theorem Only.same {p : Part} (h : Only l s t) (hp : p ∉ l) : Same s t p := h p hp

end Sys2Proof.Machine
end

