-- ==== Sys2Proof/Laws/Exec.lean ====
section
/-! SUPPORT. What an execute step can do, said once: it answers a next state, and only the parts its instruction's rule
names may differ. The rules of the whole machine follow from it without unfolding a meaning again. -/

namespace Sys2Proof.Machine

/-- The parts fault entry writes (60_exceptions R170). -/
def faultParts : List Part := [.runState, .faultRecord, .phase]

/-- The parts of the state that the execute step of an instruction may change (10_state R11, R14; 20_memory R41). -/
def mayChange (s : State) : Instr → List Part
  | .op00E0 => [.pc, .sent]
  | .op00EE => .pc :: .SP :: faultParts
  | .op1NNN _ => [.pc]
  | .op2NNN _ => .pc :: .SP :: ((List.finRange 16).filter fun k => k.val = s.SP.val).map .slot ++ faultParts
  | .op3XNN _ _ => [.pc]
  | .op4XNN _ _ => [.pc]
  | .op5XY0 _ _ _ => [.pc]
  | .op6XNN x _ => [.pc, .reg x]
  | .op7XNN x _ => [.pc, .reg x]
  | .op8XY0 x _ => [.pc, .reg x]
  | .op8XY1 x _ => [.pc, .reg x]
  | .op8XY2 x _ => [.pc, .reg x]
  | .op8XY3 x _ => [.pc, .reg x]
  | .op8XY4 x _ => [.pc, .reg x, .reg VF]
  | .op8XY5 x _ => [.pc, .reg x, .reg VF]
  | .op8XY6 x _ => [.pc, .reg x, .reg VF]
  | .op8XY7 x _ => [.pc, .reg x, .reg VF]
  | .op8XYE x _ => [.pc, .reg x, .reg VF]
  | .op9XY0 _ _ _ => [.pc]
  | .opANNN _ => [.pc, .I]
  | .opBNNN _ => [.pc]
  | .opCXNN x _ => [.pc, .reg x, .sent]
  | .opDXYN _ _ _ => .pc :: .reg VF :: .sent :: faultParts
  | .opEX9E _ => [.pc, .sent]
  | .opEXA1 _ => [.pc, .sent]
  | .opFX07 x => [.pc, .reg x]
  | .opFX0A x => [.pc, .reg x, .DT, .ST, .runState, .phase, .sent]
  | .opFX15 _ => [.pc, .DT]
  | .opFX18 _ => [.pc, .ST]
  | .opFX1E _ => [.pc, .I, .reg VF]
  | .opFX29 _ => [.pc, .I]
  | .opFX33 _ => .pc :: blockParts s 3 ++ faultParts
  | .opFX55 x => .pc :: blockParts s (x.toNat + 1) ++ faultParts
  | .opFX65 x => .pc :: regParts x ++ faultParts

/-- Every execute step answers a next state: no instruction is refused and none stops the model. -/
theorem exec_isNext (i : Instr) (s : State) : ∃ t, exec i s = .next t := by
  cases i <;> exact ⟨_, rfl⟩

/-! ### The frames of the shared pieces of the meanings -/

theorem only_raise' (c : Condition) (w : Word) (s : State) : Only faultParts s (raise c w s) := only_raise c w s

theorem Only.ite {l : List Part} {s t u : State} {c : Prop} [Decidable c] (ht : Only l s t) (hu : Only l s u) :
    Only l s (if c then t else u) := by split <;> assumption

theorem only_setV_advance (s : State) (x : Reg) (b : Byte) : Only [.pc, .reg x] s (s.setV x b).advance :=
  ((only_setV s x b).mono (by simp)).then (only_advance _) (by simp)

theorem only_spriteSent (x y : Reg) (n : Nibble) (s : State) : Only [.sent] s (spriteSent x y n s) :=
  Only.ite (Only.refl _ s) (only_send s _)

theorem only_keyAsked (s : State) : Only [.sent] s (keyAsked s) := Only.ite (Only.refl _ s) (only_send s _)

theorem only_keyQuit (x : Reg) (s : State) : Only [.reg x, .pc, .DT, .ST, .runState, .phase] s (keyQuit x s) := by
  have h1 := (only_setV s x s.inputs.quitV).mono (l' := [.reg x, .pc, .DT, .ST, .runState, .phase]) (by simp)
  have h2 := fun u : State => Only.ite (c := s.inputs.quitPcNext = true) (only_advance u) (Only.refl [.pc] u)
  have h3 := fun u : State => Only.ite (c := s.inputs.quitTickDT = true) (only_setDT u (tick u.DT)) (Only.refl [.DT] u)
  have h4 := fun u : State => Only.ite (c := s.inputs.quitTickST = true) (only_setST u (tick u.ST)) (Only.refl [.ST] u)
  exact (((h1.then (h2 _) (by simp)).then (h3 _) (by simp)).then (h4 _) (by simp)).then (only_halt _) (by simp)

/-! ### The frame of every instruction -/

/-- The execute step of `i` changes no part of the state but those `mayChange` lists. -/
theorem exec_only {i : Instr} {s t : State} (h : exec i s = .next t) : Only (mayChange s i) s t := by
  cases i with
  | op00E0 =>
    obtain rfl := Host.Outcome.next.inj h
    exact ((only_send s _).mono (by simp [mayChange])).then (only_advance _) (by simp [mayChange])
  | op00EE =>
    simp only [exec, exec00EE] at h
    split at h <;> obtain rfl := Host.Outcome.next.inj h
    · obtain ⟨-, -, -, -, ho⟩ := pop_eq_some ‹_›
      exact (ho.mono (by simp [mayChange])).then (only_jump _ _) (by simp [mayChange])
    · exact (only_raise' _ _ s).mono (by simp [mayChange])
  | op2NNN nnn =>
    simp only [exec, exec2NNN] at h
    split at h <;> obtain rfl := Host.Outcome.next.inj h
    · obtain ⟨k, hk, -, -, -, ho⟩ := push_eq_some ‹_›
      exact (ho.mono (by simp [mayChange, hk])).then (only_jump _ _) (by simp [mayChange])
    · exact (only_raise' _ _ s).mono (by intro p hp; simp [mayChange, hp])
  | op1NNN | opBNNN => obtain rfl := Host.Outcome.next.inj h; exact only_jump s _
  | op3XNN | op4XNN | op5XY0 | op9XY0 => obtain rfl := Host.Outcome.next.inj h; exact only_skipIf s _
  | op6XNN | op7XNN | op8XY0 | op8XY1 | op8XY2 | op8XY3 | opFX07 =>
    obtain rfl := Host.Outcome.next.inj h; exact only_setV_advance s _ _
  | op8XY4 | op8XY5 | op8XY6 | op8XY7 | op8XYE =>
    obtain rfl := Host.Outcome.next.inj h; exact only_resultThenFlag s _ _ _
  | opANNN | opFX29 =>
    obtain rfl := Host.Outcome.next.inj h
    exact ((only_setI s _).mono (by simp [mayChange])).then (only_advance _) (by simp [mayChange])
  | opFX1E =>
    obtain rfl := Host.Outcome.next.inj h
    exact (((only_setI s _).mono (by simp [mayChange])).then (only_setFlag _ _) (by simp [mayChange])).then
      (only_advance _) (by simp [mayChange])
  | opCXNN x nn =>
    obtain rfl := Host.Outcome.next.inj h
    exact (((only_send s .randomByte).mono (by simp [mayChange])).then (only_setV _ x _) (by simp [mayChange])).then
      (only_advance _) (by simp [mayChange])
  | opDXYN x y n =>
    have hs := (only_spriteSent x y n s).mono (l' := mayChange s (.opDXYN x y n)) (by simp [mayChange])
    simp only [exec, execDXYN] at h
    split at h
    · split at h <;> obtain rfl := Host.Outcome.next.inj h
      · exact ((hs.then (only_setPhase _ _) (by simp [mayChange, faultParts])).then (only_setFlag _ _)
          (by simp [mayChange])).then (only_advance _) (by simp [mayChange])
      · exact hs.then (only_setPhase _ _) (by simp [mayChange, faultParts])
    · obtain rfl := Host.Outcome.next.inj h
      exact (only_raise' _ _ s).mono (by intro p hp; simp [mayChange, hp])
  | opEX9E | opEXA1 =>
    obtain rfl := Host.Outcome.next.inj h
    exact ((only_send s .drainKeys).mono (by simp [mayChange])).then (only_skipIf _ _) (by simp [mayChange])
  | opFX0A x =>
    have ha := (only_keyAsked s).mono (l' := mayChange s (.opFX0A x)) (by simp [mayChange])
    simp only [exec, execFX0A] at h
    split at h <;> obtain rfl := Host.Outcome.next.inj h
    · exact ((ha.then (only_setPhase _ _) (by simp [mayChange])).then (only_setV _ _ _) (by simp [mayChange])).then
        (only_advance _) (by simp [mayChange])
    · exact ha.then (only_setPhase _ _) (by simp [mayChange])
    · exact ha.then (only_keyQuit x _) (by simp [mayChange])
  | opFX15 =>
    obtain rfl := Host.Outcome.next.inj h
    exact ((only_setDT s _).mono (by simp [mayChange])).then (only_advance _) (by simp [mayChange])
  | opFX18 =>
    obtain rfl := Host.Outcome.next.inj h
    exact ((only_setST s _).mono (by simp [mayChange])).then (only_advance _) (by simp [mayChange])
  | opFX33 x =>
    simp only [exec, execFX33] at h
    split at h <;> obtain rfl := Host.Outcome.next.inj h
    · exact ((only_writeBlock s _).mono (by intro p hp; exact List.mem_cons_of_mem _ (List.mem_append_left _ hp))).then
        (only_advance _) (by simp [mayChange])
    · exact (only_raise' _ _ s).mono (by intro p hp; simp [mayChange, hp])
  | opFX55 x =>
    simp only [exec, execFX55] at h
    split at h <;> obtain rfl := Host.Outcome.next.inj h
    · have hb := only_writeBlock s (s.regBlock x)
      rw [length_regBlock] at hb
      exact (hb.mono (by intro p hp; exact List.mem_cons_of_mem _ (List.mem_append_left _ hp))).then
        (only_advance _) (by simp [mayChange])
    · exact (only_raise' _ _ s).mono (by intro p hp; simp [mayChange, hp])
  | opFX65 x =>
    simp only [exec, execFX65] at h
    split at h <;> obtain rfl := Host.Outcome.next.inj h
    · exact ((only_loadRegs s x).mono (by intro p hp; exact List.mem_cons_of_mem _ (List.mem_append_left _ hp))).then
        (only_advance _) (by simp [mayChange])
    · exact (only_raise' _ _ s).mono (by intro p hp; simp [mayChange, hp])

/-- No execute step changes the parameters, the inputs or the draw counter. -/
theorem exec_params {i : Instr} {s t : State} (h : exec i s = .next t) : t.params = s.params :=
  (exec_only h).same (p := .params) (by cases i <;> simp [mayChange, faultParts, blockParts, regParts])

end Sys2Proof.Machine
end

