-- ==== Sys2Proof/Laws/PerInstr.lean ====
section
/-! SUPPORT. Statements made of every instruction as syntax, one lemma per constructor. Family `Row`: the word of an
instruction has the fixed bits of its row of spec/30_encoding.md R66, `w AND mask = match`. -/

namespace Sys2Proof

/-- The `mask` column of R66. -/
def rowMask : Instr → Word
  | .op00E0 => 0xFFFF
  | .op00EE => 0xFFFF
  | .op8XY0 _ _ => 0xF00F
  | .op8XY1 _ _ => 0xF00F
  | .op8XY2 _ _ => 0xF00F
  | .op8XY3 _ _ => 0xF00F
  | .op8XY4 _ _ => 0xF00F
  | .op8XY5 _ _ => 0xF00F
  | .op8XY6 _ _ => 0xF00F
  | .op8XY7 _ _ => 0xF00F
  | .op8XYE _ _ => 0xF00F
  | .opEX9E _ => 0xF0FF
  | .opEXA1 _ => 0xF0FF
  | .opFX07 _ => 0xF0FF
  | .opFX0A _ => 0xF0FF
  | .opFX15 _ => 0xF0FF
  | .opFX18 _ => 0xF0FF
  | .opFX1E _ => 0xF0FF
  | .opFX29 _ => 0xF0FF
  | .opFX33 _ => 0xF0FF
  | .opFX55 _ => 0xF0FF
  | .opFX65 _ => 0xF0FF
  | _ => 0xF000

/-- The `match` column of R66. -/
def rowMatch : Instr → Word
  | .op00E0 => 0x00E0
  | .op00EE => 0x00EE
  | .op1NNN _ => 0x1000
  | .op2NNN _ => 0x2000
  | .op3XNN _ _ => 0x3000
  | .op4XNN _ _ => 0x4000
  | .op5XY0 _ _ _ => 0x5000
  | .op6XNN _ _ => 0x6000
  | .op7XNN _ _ => 0x7000
  | .op8XY0 _ _ => 0x8000
  | .op8XY1 _ _ => 0x8001
  | .op8XY2 _ _ => 0x8002
  | .op8XY3 _ _ => 0x8003
  | .op8XY4 _ _ => 0x8004
  | .op8XY5 _ _ => 0x8005
  | .op8XY6 _ _ => 0x8006
  | .op8XY7 _ _ => 0x8007
  | .op8XYE _ _ => 0x800E
  | .op9XY0 _ _ _ => 0x9000
  | .opANNN _ => 0xA000
  | .opBNNN _ => 0xB000
  | .opCXNN _ _ => 0xC000
  | .opDXYN _ _ _ => 0xD000
  | .opEX9E _ => 0xE09E
  | .opEXA1 _ => 0xE0A1
  | .opFX07 _ => 0xF007
  | .opFX0A _ => 0xF00A
  | .opFX15 _ => 0xF015
  | .opFX18 _ => 0xF018
  | .opFX1E _ => 0xF01E
  | .opFX29 _ => 0xF029
  | .opFX33 _ => 0xF033
  | .opFX55 _ => 0xF055
  | .opFX65 _ => 0xF065

theorem and_ones4 (a : BitVec 4) : a &&& 0xF = a := BitVec.and_allOnes
theorem and_zero_lit {n : Nat} (a : BitVec n) : a &&& 0 = 0 := BitVec.and_zero
theorem and_ones8 (a : BitVec 8) : a &&& 0xFF = a := BitVec.and_allOnes

/-- A concatenation under a mask is the concatenation of its masked parts. -/
theorem and_formatA (c c' : BitVec 4) (a a' : Addr) : formatA c a &&& formatA c' a' = formatA (c &&& c') (a &&& a') :=
  BitVec.and_append

theorem and_formatXI (c c' : BitVec 4) (x x' : Reg) (a a' : Byte) :
    formatXI c x a &&& formatXI c' x' a' = formatXI (c &&& c') (x &&& x') (a &&& a') := by
  have h : (c ++ x : BitVec 8) &&& (c' ++ x' : BitVec 8) = ((c &&& c') ++ (x &&& x') : BitVec 8) := BitVec.and_append
  unfold formatXI
  rw [← h]
  exact BitVec.and_append

theorem and_formatXYN (c c' : BitVec 4) (x x' y y' : Reg) (n n' : Nibble) :
    formatXYN c x y n &&& formatXYN c' x' y' n' = formatXYN (c &&& c') (x &&& x') (y &&& y') (n &&& n') := by
  have h : (c ++ x : BitVec 8) &&& (c' ++ x' : BitVec 8) = ((c &&& c') ++ (x &&& x') : BitVec 8) := BitVec.and_append
  have h' : ((c ++ x : BitVec 8) ++ y : BitVec 12) &&& ((c' ++ x' : BitVec 8) ++ y' : BitVec 12)
      = (((c ++ x : BitVec 8) &&& (c' ++ x' : BitVec 8)) ++ (y &&& y') : BitVec 12) := BitVec.and_append
  unfold formatXYN
  rw [← h, ← h']
  exact BitVec.and_append

theorem formatA_mask (c : BitVec 4) (nnn : Addr) : formatA c nnn &&& 0xF000 = formatA c 0 := by
  rw [show (0xF000 : Word) = formatA 0xF 0 by decide, and_formatA, and_ones4, and_zero_lit]

theorem formatXI_mask (c : BitVec 4) (x : Reg) (nn : Byte) : formatXI c x nn &&& 0xF000 = formatXI c 0 0 := by
  rw [show (0xF000 : Word) = formatXI 0xF 0 0 by decide, and_formatXI, and_ones4, and_zero_lit, and_zero_lit]

theorem formatXS_mask (c : BitVec 4) (x : Reg) (nn : Byte) : formatXI c x nn &&& 0xF0FF = formatXI c 0 nn := by
  rw [show (0xF0FF : Word) = formatXI 0xF 0 0xFF by decide, and_formatXI, and_ones4, and_ones8, and_zero_lit]

theorem formatXYN_mask (c : BitVec 4) (x y : Reg) (n : Nibble) : formatXYN c x y n &&& 0xF000 = formatXYN c 0 0 0 := by
  rw [show (0xF000 : Word) = formatXYN 0xF 0 0 0 by decide, and_formatXYN, and_ones4, and_zero_lit, and_zero_lit,
    and_zero_lit]

theorem formatXY_mask (c : BitVec 4) (x y : Reg) (n : Nibble) : formatXYN c x y n &&& 0xF00F = formatXYN c 0 0 n := by
  rw [show (0xF00F : Word) = formatXYN 0xF 0 0 0xF by decide, and_formatXYN, and_ones4, and_ones4, and_zero_lit,
    and_zero_lit]

/-- The word of `i` has the fixed bits of its row (R66). -/
def Laws.Row.Statement (i : Instr) : Prop := encode i &&& rowMask i = rowMatch i

theorem Laws.Row.op00E0 : Laws.Row.Statement .op00E0 := rfl
theorem Laws.Row.op00EE : Laws.Row.Statement .op00EE := rfl
theorem Laws.Row.op1NNN (nnn : Addr) : Laws.Row.Statement (.op1NNN nnn) := formatA_mask _ nnn
theorem Laws.Row.op2NNN (nnn : Addr) : Laws.Row.Statement (.op2NNN nnn) := formatA_mask _ nnn
theorem Laws.Row.op3XNN (x : Reg) (nn : Byte) : Laws.Row.Statement (.op3XNN x nn) := formatXI_mask _ x nn
theorem Laws.Row.op4XNN (x : Reg) (nn : Byte) : Laws.Row.Statement (.op4XNN x nn) := formatXI_mask _ x nn
theorem Laws.Row.op5XY0 (x y : Reg) (n : Nibble) : Laws.Row.Statement (.op5XY0 x y n) := formatXYN_mask _ x y n
theorem Laws.Row.op6XNN (x : Reg) (nn : Byte) : Laws.Row.Statement (.op6XNN x nn) := formatXI_mask _ x nn
theorem Laws.Row.op7XNN (x : Reg) (nn : Byte) : Laws.Row.Statement (.op7XNN x nn) := formatXI_mask _ x nn
theorem Laws.Row.op8XY0 (x y : Reg) : Laws.Row.Statement (.op8XY0 x y) := formatXY_mask _ x y _
theorem Laws.Row.op8XY1 (x y : Reg) : Laws.Row.Statement (.op8XY1 x y) := formatXY_mask _ x y _
theorem Laws.Row.op8XY2 (x y : Reg) : Laws.Row.Statement (.op8XY2 x y) := formatXY_mask _ x y _
theorem Laws.Row.op8XY3 (x y : Reg) : Laws.Row.Statement (.op8XY3 x y) := formatXY_mask _ x y _
theorem Laws.Row.op8XY4 (x y : Reg) : Laws.Row.Statement (.op8XY4 x y) := formatXY_mask _ x y _
theorem Laws.Row.op8XY5 (x y : Reg) : Laws.Row.Statement (.op8XY5 x y) := formatXY_mask _ x y _
theorem Laws.Row.op8XY6 (x y : Reg) : Laws.Row.Statement (.op8XY6 x y) := formatXY_mask _ x y _
theorem Laws.Row.op8XY7 (x y : Reg) : Laws.Row.Statement (.op8XY7 x y) := formatXY_mask _ x y _
theorem Laws.Row.op8XYE (x y : Reg) : Laws.Row.Statement (.op8XYE x y) := formatXY_mask _ x y _
theorem Laws.Row.op9XY0 (x y : Reg) (n : Nibble) : Laws.Row.Statement (.op9XY0 x y n) := formatXYN_mask _ x y n
theorem Laws.Row.opANNN (nnn : Addr) : Laws.Row.Statement (.opANNN nnn) := formatA_mask _ nnn
theorem Laws.Row.opBNNN (nnn : Addr) : Laws.Row.Statement (.opBNNN nnn) := formatA_mask _ nnn
theorem Laws.Row.opCXNN (x : Reg) (nn : Byte) : Laws.Row.Statement (.opCXNN x nn) := formatXI_mask _ x nn
theorem Laws.Row.opDXYN (x y : Reg) (n : Nibble) : Laws.Row.Statement (.opDXYN x y n) := formatXYN_mask _ x y n
theorem Laws.Row.opEX9E (x : Reg) : Laws.Row.Statement (.opEX9E x) := formatXS_mask _ x _
theorem Laws.Row.opEXA1 (x : Reg) : Laws.Row.Statement (.opEXA1 x) := formatXS_mask _ x _
theorem Laws.Row.opFX07 (x : Reg) : Laws.Row.Statement (.opFX07 x) := formatXS_mask _ x _
theorem Laws.Row.opFX0A (x : Reg) : Laws.Row.Statement (.opFX0A x) := formatXS_mask _ x _
theorem Laws.Row.opFX15 (x : Reg) : Laws.Row.Statement (.opFX15 x) := formatXS_mask _ x _
theorem Laws.Row.opFX18 (x : Reg) : Laws.Row.Statement (.opFX18 x) := formatXS_mask _ x _
theorem Laws.Row.opFX1E (x : Reg) : Laws.Row.Statement (.opFX1E x) := formatXS_mask _ x _
theorem Laws.Row.opFX29 (x : Reg) : Laws.Row.Statement (.opFX29 x) := formatXS_mask _ x _
theorem Laws.Row.opFX33 (x : Reg) : Laws.Row.Statement (.opFX33 x) := formatXS_mask _ x _
theorem Laws.Row.opFX55 (x : Reg) : Laws.Row.Statement (.opFX55 x) := formatXS_mask _ x _
theorem Laws.Row.opFX65 (x : Reg) : Laws.Row.Statement (.opFX65 x) := formatXS_mask _ x _

end Sys2Proof
end

