-- ==== Sys2Proof/Laws/Step.lean ====
section
/-! SUPPORT. What a step can do, said once (spec/10_state.md R26, R30; spec/60_exceptions.md R173). -/

namespace Sys2Proof.Machine

/-- The inversion of a cycle that answers a next state: quit, a fetch condition, an unimplemented word, or an execute step. -/
theorem cycle_cases {s t : State} (h : cycle s = .next t) :
    (quitSeen s = true ∧ t = s.halt.redraw) ∨
    (quitSeen s = false ∧ ∃ c, fetch s = .fail c ∧ t = (raise c 0 s).redraw) ∨
    (quitSeen s = false ∧ ∃ w w', fetch s = .word w ∧ decode s.params.strictLowNibble w = .unimplementedOpcode w' ∧
      t = (raise .unimplementedOpcode w' s).redraw) ∨
    (quitSeen s = false ∧ ∃ w i u, fetch s = .word w ∧ decode s.params.strictLowNibble w = .instr i ∧
      exec i s = .next u ∧ t = (finish u).redraw) := by
  unfold cycle at h
  split at h
  · rename_i hq
    exact .inl ⟨hq, (Host.Outcome.next.inj h).symm⟩
  · rename_i hq
    have hq' : quitSeen s = false := by simpa using hq
    split at h
    · rename_i c hf
      exact .inr (.inl ⟨hq', c, hf, (Host.Outcome.next.inj h).symm⟩)
    · rename_i w hf
      split at h
      · rename_i w' hd
        exact .inr (.inr (.inl ⟨hq', w, w', hf, hd, (Host.Outcome.next.inj h).symm⟩))
      · rename_i i hd
        unfold executed at h
        split at h
        · rename_i u hu
          exact .inr (.inr (.inr ⟨hq', w, i, u, hf, hd, hu, (Host.Outcome.next.inj h).symm⟩))
        · cases h
        · cases h

/-- The inversion of a step that answers a next state: a reset, a host act in `Idle`, a cycle, or a stopped core that holds. -/
theorem step_cases {s t : State} (h : step s = .next t) :
    s.params.wf = true ∧
    ((s.inputs.host = .reset ∧ t = s.hostReset.redraw) ∨
     (s.inputs.host ≠ .reset ∧ s.runState = .idle ∧ t = (s.idleAct s.inputs.host).redraw) ∨
     (s.inputs.host ≠ .reset ∧ s.runState = .running ∧ cycle s = .next t) ∨
     (s.inputs.host ≠ .reset ∧ (s.runState = .halted ∨ s.runState = .faulted) ∧ t = s.redraw)) := by
  unfold step machineStep at h
  split at h
  · rename_i hw
    refine ⟨hw, ?_⟩
    split at h
    · exact .inl ⟨‹_›, (Host.Outcome.next.inj h).symm⟩
    · rename_i hr
      split at h
      · exact .inr (.inl ⟨hr, ‹_›, (Host.Outcome.next.inj h).symm⟩)
      · exact .inr (.inr (.inl ⟨hr, ‹_›, h⟩))
      · exact .inr (.inr (.inr ⟨hr, .inl ‹_›, (Host.Outcome.next.inj h).symm⟩))
      · exact .inr (.inr (.inr ⟨hr, .inr ‹_›, (Host.Outcome.next.inj h).symm⟩))
  · cases h

/-- The step of a running core without a reset is its cycle (10_state R30). -/
theorem step_of_cycles {s : State} (h : s.cycles) : step s = cycle s := by
  obtain ⟨hw, hr, hh⟩ := h
  simp [step, machineStep, hw, hr, hh]

/-- The cycle of a state whose word decodes is the execute step (10_state R30). -/
theorem cycle_of_decode {s : State} {w : Word} {i : Instr} (hq : quitSeen s = false) (hf : fetch s = .word w)
    (hd : decode s.params.strictLowNibble w = .instr i) : cycle s = executed i s := by
  simp [cycle, hq, hf, hd]

/-- What closes a cycle changes the timers at most (10_state R33). -/
theorem only_finish (t : State) : Only [.DT, .ST] t (finish t) := by
  unfold finish
  split
  · exact only_tickTimers t
  · exact Only.refl _ t

/-- "Neither goes below 0 and neither wraps" (10_state R33). -/
theorem toNat_tick (b : Byte) : (tick b).toNat = b.toNat - 1 := by
  unfold tick
  split
  · simp_all
  · rename_i h
    have h0 : b.toNat ≠ 0 := fun e => h (BitVec.eq_of_toNat_eq (by simpa using e))
    have := b.isLt
    rw [BitVec.toNat_sub]
    simp
    omega

/-- When the fetch gives a word, `pc` is even and in range, and the word is the big-endian one there (10_state R15, R31). -/
theorem fetch_eq_word {s : State} {w : Word} (h : fetch s = .word w) :
    s.pc.getLsbD 0 = false ∧ s.pc.toNat + 1 < s.params.memSize ∧
      w = wordOfBytes (s.readByte s.pc.toNat) (s.readByte (s.pc.toNat + 1)) := by
  unfold fetch at h
  split at h
  · cases h
  · split at h
    · cases h
    · exact ⟨by simp_all, by omega, (Fetched.word.inj h).symm⟩

/-- The parity of `pc` as a number. -/
theorem pc_lsb_eq (w : Word) : w.getLsbD 0 = decide (w.toNat % 2 = 1) := by
  rw [BitVec.getLsbD, Nat.testBit_zero]

/-- `PROG_BASE` as a number (00_scope R5). -/
@[simp] theorem progBase_toNat : progBase.toNat = 512 := by decide

end Sys2Proof.Machine
end

