-- ==== Sys2Proof/Tests/Slice0.lean ====
section
/-! SUPPORT. The model's own tests. Expected results are the vectors of spec/95_test_vectors.md (its parts 1 and 2) and the
worked examples of the instruction rules; words are written out from the patterns and formats of 30_encoding R62, R66. -/

namespace Sys2Proof.Tests

open Sys2Proof Sys2Proof.Machine

/-! ### Well-formedness: a term each check refuses -/

theorem test_wf_refuses_op5XY0_low_nibble : Instr.wf (.op5XY0 1 2 7) = false := by decide
theorem test_wf_refuses_op9XY0_low_nibble : Instr.wf (.op9XY0 1 2 0xF) = false := by decide
theorem test_wf_accepts_canonical : Instr.wf (.op5XY0 1 2 0) = true ∧ Instr.wf (.op9XY0 1 2 0) = true := by decide
theorem test_params_refuse_small_memory : Params.wf { Config.params with memSize := 4095 } = false := by decide
theorem test_params_refuse_large_memory : Params.wf { Config.params with memSize := 65537 } = false := by decide
theorem test_params_refuse_stack_limit : Params.wf { Config.params with stackLimit := 14 } = false := by decide
theorem test_params_accept : Params.wf Config.params = true ∧
    Params.wf { Config.params with memSize := 4098, stackLimit := 16 } = true := by decide
theorem test_step_refuses_bad_params :
    step { State.reset with params := { Config.params with memSize := 4095 } } = .fault .badParams := by rfl

/-! ### Decoding: one word of every row, written out as class, x, y, n (95 part 2.1 and the rules' examples) -/

theorem test_decode_flow : decodeTableWord 16 0b0000_0000_1110_1110 = some .op00EE ∧
    decodeTableWord 16 0b0001_1010_1011_1100 = some (.op1NNN 0xABC) ∧
    decodeTableWord 16 0b0010_0011_0000_0000 = some (.op2NNN 0x300) ∧
    decodeTableWord 16 0b1011_0011_0000_0000 = some (.opBNNN 0x300) := by decide
theorem test_decode_skip : decodeTableWord 16 0b0011_1010_0111_1111 = some (.op3XNN 10 0x7F) ∧
    decodeTableWord 16 0b0100_1010_1111_1111 = some (.op4XNN 10 0xFF) ∧
    decodeTableWord 16 0b0101_0001_0010_0000 = some (.op5XY0 1 2 0) ∧
    decodeTableWord 16 0b1001_0001_0010_1111 = some (.op9XY0 1 2 15) := by decide
theorem test_decode_immediate : decodeTableWord 16 0b0110_1010_0011_1100 = some (.op6XNN 10 0x3C) ∧
    decodeTableWord 16 0b0111_0010_0000_0010 = some (.op7XNN 2 0x02) := by decide
theorem test_decode_alu_plain : decodeTableWord 16 0b1000_1010_1011_0000 = some (.op8XY0 10 11) ∧
    decodeTableWord 16 0b1000_1010_1011_0001 = some (.op8XY1 10 11) ∧
    decodeTableWord 16 0b1000_1010_1011_0010 = some (.op8XY2 10 11) ∧
    decodeTableWord 16 0b1000_1010_1011_0011 = some (.op8XY3 10 11) := by decide
theorem test_decode_alu_flags : decodeTableWord 16 0b1000_1010_1011_0100 = some (.op8XY4 10 11) ∧
    decodeTableWord 16 0b1000_1010_1011_0101 = some (.op8XY5 10 11) ∧
    decodeTableWord 16 0b1000_1010_1011_0110 = some (.op8XY6 10 11) ∧
    decodeTableWord 16 0b1000_1010_1011_0111 = some (.op8XY7 10 11) ∧
    decodeTableWord 16 0b1000_1010_1011_1110 = some (.op8XYE 10 11) := by decide
theorem test_decode_index : decodeTableWord 16 0b1010_0010_1111_0000 = some (.opANNN 0x2F0) ∧
    decodeTableWord 16 0b1111_0011_0001_1110 = some (.opFX1E 3) ∧
    decodeTableWord 16 0b1111_0100_0010_1001 = some (.opFX29 4) := by decide
theorem test_decode_transfer : decodeTableWord 16 0b1111_0011_0011_0011 = some (.opFX33 3) ∧
    decodeTableWord 16 0b1111_0001_0101_0101 = some (.opFX55 1) ∧
    decodeTableWord 16 0b1111_0001_0110_0101 = some (.opFX65 1) := by decide
theorem test_decode_display : decodeTableWord 16 0b0000_0000_1110_0000 = some .op00E0 ∧
    decodeTableWord 16 0b1100_0011_0000_1111 = some (.opCXNN 3 0x0F) ∧
    decodeTableWord 16 0b1101_0001_0010_1111 = some (.opDXYN 1 2 15) := by decide
theorem test_decode_keypad : decodeTableWord 16 0b1110_0001_1001_1110 = some (.opEX9E 1) ∧
    decodeTableWord 16 0b1110_0001_1010_0001 = some (.opEXA1 1) ∧
    decodeTableWord 16 0b1111_0001_0000_1010 = some (.opFX0A 1) := by decide
theorem test_decode_timers : decodeTableWord 16 0b1111_0001_0000_0111 = some (.opFX07 1) ∧
    decodeTableWord 16 0b1111_0001_0001_0101 = some (.opFX15 1) ∧
    decodeTableWord 16 0b1111_0001_0001_1000 = some (.opFX18 1) := by decide

theorem test_unimplemented_class0 : ∀ w ∈ [0x0000, 0x00E1, 0x00EF, 0x01E0, 0x0EE0, 0x0123],
    decodeTableWord 16 w = none := by decide
theorem test_unimplemented_class8 : ∀ w ∈ [0x8AB8, 0x8AB9, 0x8ABA, 0x8ABB, 0x8ABC, 0x8ABD, 0x8ABF],
    decodeTableWord 16 w = none := by decide
theorem test_unimplemented_classE : ∀ w ∈ [0xE19F, 0xE1A0, 0xE100, 0xE1FF], decodeTableWord 16 w = none := by decide
theorem test_unimplemented_classF : ∀ w ∈ [0xF100, 0xF175, 0xF185, 0xF130, 0xF11F, 0xF1FF],
    decodeTableWord 16 w = none := by decide
theorem test_strict_low_nibble : decode true 0x5127 = .unimplementedOpcode 0x5127 ∧
    decode true 0x912F = .unimplementedOpcode 0x912F ∧ decode false 0x5127 = .instr (.op5XY0 1 2 7) ∧
    decode true 0x5120 = .instr (.op5XY0 1 2 0) := by decide
theorem test_decode_bytes : decodeBytes false [0x8A, 0xB4, 0x12] = some (.instr (.op8XY4 10 11), [0x12]) ∧
    decodeBytes false [0x8A] = none := by decide
theorem test_encode_words : encode (.op8XY4 10 11) = 0x8AB4 ∧ encode (.op1NNN 0xABC) = 0x1ABC ∧
    encode (.op3XNN 10 0x7F) = 0x3A7F ∧ encode (.opDXYN 1 2 15) = 0xD12F ∧ encode (.opFX0A 1) = 0xF10A := by decide

/-! ### One cycle on a small state -/

/-- The state after one step that runs the word `w` from `s`; `s` itself where the step answers none. -/
def after (w : Nat) (s : State) : State :=
  match step (s.withFetchWord 16 w) with
  | .next t => t
  | .fault _ => s
  | .refused _ => s

/-- The reset state with some registers written. -/
def regs (l : List (Reg × Byte)) : State := l.foldl (fun s p => s.setV p.1 p.2) State.reset

/-- The reset state with `I` and some registers written. -/
def atI (i : Word) (l : List (Reg × Byte)) : State := (regs l).setI i

/-- A state whose next step sees given inputs. -/
def seeing (a : Inputs) (s : State) : State := { s with inputs := a }

/-- The reset state of a machine of another size. -/
def sized (n : Nat) : State := State.resetWith { Config.params with memSize := n }

/-- A state of a given depth. -/
def deep (n : Fin 17) (s : State) : State := { s with SP := n }

theorem test_reset_state : State.reset.pc = 0x0200 ∧ State.reset.runState = .idle ∧ State.reset.readByte 0 = 0xF0 ∧
    State.reset.readByte 5 = 0 ∧ State.reset.readByte 154 = 0x80 ∧ State.reset.readByte 0x200 = 0 := by decide
theorem test_empty_rom_faults : (after 0x0000 State.reset).faultCode = 1 ∧ (after 0x0000 State.reset).faultPc = 0x200 ∧
    (after 0x0000 State.reset).runState = .faulted := by decide

theorem test_1NNN : (after 0x1234 State.reset).pc = 0x0234 ∧ (after 0x1FFF State.reset).pc = 0x0FFF := by decide
theorem test_2NNN_at_the_end : (after 0x2300 (deep 3 { State.reset with pc := 0x0FFE })).stack[3] = 0x1000 ∧
    (after 0x2300 (deep 3 { State.reset with pc := 0x0FFE })).pc = 0x0300 := by decide
theorem test_2NNN_limit : (after 0x2300 (deep 14 State.reset)).SP = 15 ∧ (after 0x2300 (deep 15 State.reset)).faultCode = 2 ∧
    (after 0x2300 (deep 15 State.reset)).faultWord = 0x2300 ∧ (after 0x2300 (deep 15 State.reset)).SP = 15 := by decide
theorem test_00EE : (after 0x00EE (deep 2 { State.reset with stack := State.reset.stack.set 1 0x0456 })).pc = 0x0456 ∧
    (after 0x00EE (deep 2 State.reset)).SP = 1 := by decide
theorem test_00EE_empty : (after 0x00EE State.reset).faultCode = 3 ∧ (after 0x00EE State.reset).faultWord = 0x00EE ∧
    (after 0x00EE State.reset).pc = 0x0200 := by decide
theorem test_BNNN : (after 0xBFFF (regs [(0, 0xFF)])).pc = 0x10FE ∧ (after 0xB300 (regs [(3, 0x55)])).pc = 0x0300 := by decide

theorem test_3XNN : (after 0x3A00 State.reset).pc = 0x204 ∧ (after 0x3A00 (regs [(10, 1)])).pc = 0x202 := by decide
theorem test_4XNN : (after 0x4A00 State.reset).pc = 0x202 ∧ (after 0x4AFF (regs [(10, 0xFE)])).pc = 0x204 := by decide
theorem test_5XY0 : (after 0x5AB0 (regs [(10, 0x7F), (11, 0x7F)])).pc = 0x204 ∧
    (after 0x5AB0 (regs [(10, 0x7F), (11, 0x80)])).pc = 0x202 := by decide
theorem test_9XY0 : (after 0x9AB0 (regs [(10, 0x7F), (11, 0x80)])).pc = 0x204 ∧
    (after 0x9AB7 (regs [(10, 0x7F), (11, 0x7F)])).pc = 0x202 := by decide

theorem test_6XNN : (after 0x6A3C State.reset).getV 10 = 0x3C ∧ (after 0x6F07 State.reset).getV VF = 0x07 := by decide
theorem test_7XNN : (after 0x7A01 (regs [(10, 0xFF)])).getV 10 = 0 ∧ (after 0x7A01 (regs [(10, 0xFF)])).getV VF = 0 ∧
    (after 0x7F02 (regs [(VF, 0xFF)])).getV VF = 0x01 := by decide

theorem test_8XY0 : (after 0x8120 (regs [(1, 0x11), (2, 0x22)])).getV 1 = 0x22 ∧
    (after 0x8F20 (regs [(2, 0x77)])).getV VF = 0x77 := by decide
theorem test_8XY1 : (after 0x8121 (regs [(1, 0x0F), (2, 0xF0)])).getV 1 = 0xFF := by decide
theorem test_8XY2 : (after 0x8122 (regs [(1, 0x3C), (2, 0x0F)])).getV 1 = 0x0C := by decide
theorem test_8XY3 : (after 0x8123 (regs [(1, 0xAA), (2, 0xFF), (VF, 3)])).getV 1 = 0x55 ∧
    (after 0x8123 (regs [(1, 0xAA), (2, 0xFF), (VF, 3)])).getV VF = 3 := by decide
theorem test_8XY4 : (after 0x8124 (regs [(1, 0x80), (2, 0x80)])).getV 1 = 0 ∧
    (after 0x8124 (regs [(1, 0x80), (2, 0x80)])).getV VF = 1 ∧ (after 0x8124 (regs [(1, 0x80), (2, 0x7F)])).getV VF = 0 := by
  decide
theorem test_8XY4_aliases : (after 0x8F24 (regs [(VF, 0xF0), (2, 0x20)])).getV VF = 1 ∧
    (after 0x81F4 (regs [(1, 1), (VF, 1)])).getV 1 = 2 ∧ (after 0x81F4 (regs [(1, 1), (VF, 1)])).getV VF = 0 := by decide
theorem test_8XY5 : (after 0x8125 (regs [(1, 5), (2, 5)])).getV VF = 1 ∧ (after 0x8125 (regs [(2, 1)])).getV 1 = 0xFF ∧
    (after 0x8125 (regs [(2, 1)])).getV VF = 0 := by decide
theorem test_8XY6 : (after 0x8126 (regs [(1, 0xFE), (2, 5)])).getV 1 = 2 ∧
    (after 0x8126 (regs [(1, 0xFE), (2, 5)])).getV VF = 1 ∧ (after 0x8126 (regs [(2, 0x80)])).getV 1 = 0x40 := by decide
theorem test_8XY6_aliases : (after 0x8F26 (regs [(2, 5)])).getV VF = 1 ∧ (after 0x81F6 (regs [(VF, 3)])).getV 1 = 1 := by decide
theorem test_8XY7 : (after 0x8127 (regs [(1, 0x10), (2, 0x20)])).getV 1 = 0x10 ∧
    (after 0x8127 (regs [(1, 1)])).getV 1 = 0xFF ∧ (after 0x8127 (regs [(1, 1)])).getV VF = 0 := by decide
theorem test_8XYE : (after 0x812E (regs [(2, 0x81)])).getV 1 = 2 ∧ (after 0x812E (regs [(2, 0x81)])).getV VF = 1 ∧
    (after 0x812E (regs [(1, 0x80), (2, 0x40)])).getV VF = 0 := by decide

theorem test_ANNN : (after 0xAFFF State.reset).I = 0x0FFF := by decide
theorem test_FX1E : (after 0xF31E (atI 0x0FFE [(3, 9)])).I = 0x1007 ∧ (after 0xF31E (atI 0x0FFE [(3, 9)])).getV VF = 1 ∧
    (after 0xF31E (atI 0xFFFF [(3, 1)])).I = 0 ∧ (after 0xF31E (atI 0xFFFF [(3, 1)])).getV VF = 1 ∧
    (after 0xFF1E (atI 0x0300 [(VF, 5)])).getV VF = 0 := by decide
theorem test_FX1E_4098 : (after 0xF31E (((sized 4098).setV 3 1).setI 0x1000)).getV VF = 0 ∧
    (after 0xF31E (((sized 4098).setV 3 2).setI 0x1000)).getV VF = 1 := by decide
theorem test_FX29 : (after 0xF429 (regs [(4, 0x0A)])).I = 100 ∧ (after 0xF329 (regs [(3, 0xFF)])).I = 0x09F6 := by decide

theorem test_FX33 : (after 0xF333 (atI 2 [(3, 123)])).readByte 2 = 1 ∧ (after 0xF333 (atI 2 [(3, 123)])).readByte 3 = 2 ∧
    (after 0xF333 (atI 2 [(3, 123)])).readByte 4 = 3 ∧ (after 0xF333 (atI 2 [(3, 123)])).readByte 1 = 0x90 := by decide
theorem test_FX33_bounds : (after 0xF333 (atI 0x0FFE [(3, 255)])).faultCode = 6 ∧
    (after 0xF333 (atI 0x0FFE [(3, 255)])).readByte 0x0FFE = 0 ∧ (after 0xF333 (atI 0x0FFD [(3, 255)])).readByte 0x0FFF = 5 := by
  decide
theorem test_FX55 : (after 0xF155 (atI 0x0300 [(0, 0xAA), (1, 0xBB), (2, 0xCC)])).readByte 0x0301 = 0xBB ∧
    (after 0xF155 (atI 0x0300 [(0, 0xAA), (1, 0xBB), (2, 0xCC)])).readByte 0x0302 = 0 ∧
    (after 0xF055 (atI 0xFFFF [(0, 1)])).faultCode = 6 := by decide
theorem test_FX65 : (after 0xF265 (regs [(3, 7)])).getV 0 = 0xF0 ∧ (after 0xF265 (regs [(3, 7)])).getV 2 = 0x90 ∧
    (after 0xF265 (regs [(3, 7)])).getV 3 = 7 ∧ (after 0xFF65 (atI 0x0FF1 [])).faultCode = 6 := by decide

theorem test_00E0 : (after 0x00E0 State.reset).sent = [.clear] ∧ (after 0x00E0 State.reset).pc = 0x202 := by decide
theorem test_CXNN : (after 0xC30F (seeing { Inputs.quiet with random := 0xB7 } State.reset)).getV 3 = 0x07 := by decide
theorem test_DXYN : (after 0xD125 (regs [(1, 10), (2, 5)])).sent = [.sprite 10 5 [0xF0, 0x90, 0x90, 0x90, 0xF0]] ∧
    (after 0xDF15 (seeing { Inputs.quiet with collided := some true } (regs [(VF, 0x3F)]))).getV VF = 1 := by decide
theorem test_DXYN_bounds : (after 0xD122 (atI 0x0FFF [])).faultCode = 6 ∧ (after 0xD122 (atI 0x0FFF [])).sent = [] ∧
    (after 0xD120 (atI 0xFFFF [])).faultCode = 0 ∧ (after 0xD120 (atI 0xFFFF [])).sent = [.sprite 0 0 []] := by decide

theorem test_EX9E : (after 0xE59E (seeing { Inputs.quiet with drained := [1, 0xA] } (regs [(5, 0x0A)]))).pc = 0x204 ∧
    (after 0xE59E (seeing { Inputs.quiet with drained := [0xA] } (regs [(5, 0x1A)]))).pc = 0x202 := by decide
theorem test_EXA1 : (after 0xE5A1 (seeing { Inputs.quiet with drained := [0xA] } (regs [(5, 0x0A)]))).pc = 0x202 ∧
    (after 0xE5A1 (regs [(5, 0xFF)])).pc = 0x204 := by decide
theorem test_FX0A_key : (after 0xF30A (seeing { Inputs.quiet with waitKey := .key 7 } { State.reset with DT := 9 })).getV 3 = 7 ∧
    (after 0xF30A (seeing { Inputs.quiet with waitKey := .key 7 } { State.reset with DT := 9 })).DT = 8 := by decide
theorem test_FX0A_wait : (after 0xF30A (seeing { Inputs.quiet with waitKey := .pending } { State.reset with DT := 9 })).DT = 9 ∧
    (after 0xF30A (seeing { Inputs.quiet with waitKey := .pending } State.reset)).pc = 0x200 ∧
    (after 0xF30A (seeing { Inputs.quiet with waitKey := .quit } State.reset)).runState = .halted := by decide
theorem test_FX07 : (after 0xF207 { State.reset with DT := 0x1E }).getV 2 = 0x1E ∧
    (after 0xF207 { State.reset with DT := 0x1E }).DT = 0x1D := by decide
theorem test_FX15 : (after 0xF215 (regs [(2, 5)])).DT = 4 ∧ (after 0xF215 State.reset).DT = 0 := by decide
theorem test_FX18 : (after 0xF218 (regs [(2, 3)])).ST = 2 := by decide

/-! ### The fetch, the timers, quit -/

theorem test_fetch_bounds : fetch { State.reset with pc := 0x0FFE } = .word 0 ∧
    fetch { State.reset with pc := 0x0FFF } = .fail .fetchMisaligned ∧
    fetch { State.reset with pc := 0x1000 } = .fail .fetchOutOfBounds ∧ fetch { State.reset with pc := 0 } = .word 0xF090 := by
  decide
theorem test_fetch_4098 : fetch { sized 4098 with pc := 0x1000 } = .word 0 ∧
    fetch { sized 4098 with pc := 0x1001 } = .fail .fetchMisaligned ∧
    fetch { sized 4098 with pc := 0x1002 } = .fail .fetchOutOfBounds := by decide
theorem test_fault_keeps_timers : (after 0x8AB8 { State.reset with DT := 5, ST := 5 }).DT = 5 ∧
    (after 0x8AB8 { State.reset with DT := 5, ST := 5 }).faultWord = 0x8AB8 := by decide
theorem test_core_step : core.step = step ∧ core.reset = State.reset := ⟨rfl, rfl⟩

/-! ### Witnesses: a concrete state and operands that meet all hypotheses of each obligation that has some -/

/-- A running core with the word `w` at 0x200. -/
def ready (w : Nat) (s : State) : State := s.withFetchWord 16 w

/-- A running core whose `pc` is `a`. -/
def runningAt (a : Word) : State := { State.reset with pc := a, runState := .running }

/-- A state with a host act before its step. -/
def acted (h : HostAct) (s : State) : State := seeing { Inputs.quiet with host := h } s

theorem witness_ResetInputRestoresTheResetState : (acted .reset (runningAt 0x300)).params.wf = true ∧
    (acted .reset (runningAt 0x300)).inputs.host = .reset := by decide
theorem witness_RunStartsAtProgramBase : (acted .run State.reset).params.wf = true ∧
    (acted .run State.reset).runState = .idle ∧ (acted .run State.reset).inputs.host = .run := by decide
theorem witness_LoadCopiesTheImage_fits : (acted (.load [0x12, 0x00]) State.reset).params.wf = true ∧
    (acted (.load [0x12, 0x00]) State.reset).runState = .idle ∧
    (acted (.load [0x12, 0x00]) State.reset).inputs.host = .load [0x12, 0x00] ∧
    [0x12, 0x00].length ≤ State.reset.params.memSize - 512 := by decide
theorem witness_LoadCopiesTheImage_exact : (acted (.load (List.replicate 3584 1)) State.reset).inputs.host =
      .load (List.replicate 3584 1) ∧ (List.replicate 3584 (1 : Byte)).length ≤ State.reset.params.memSize - 512 :=
  ⟨rfl, by rw [List.length_replicate]; decide⟩
theorem witness_LoadCopiesTheImage_too_long : (acted (.load (List.replicate 3585 1)) State.reset).inputs.host =
      .load (List.replicate 3585 1) ∧ State.reset.params.memSize - 512 < (List.replicate 3585 (1 : Byte)).length :=
  ⟨rfl, by rw [List.length_replicate]; decide⟩
theorem witness_StoppedCoreHoldsItsState_idle : State.reset.params.wf = true ∧ State.reset.inputs.host ≠ .reset ∧
    State.reset.runState = .idle ∧ State.reset.inputs.host = .none := by decide
theorem witness_StoppedCoreHoldsItsState_halted : ∃ s : State, s = acted .run { State.reset with runState := .halted } ∧
    s.params.wf = true ∧ s.inputs.host ≠ .reset ∧ s.runState = .halted := ⟨_, rfl, by decide⟩
theorem witness_StoppedCoreHoldsItsState_faulted : ∃ s : State, s = raise .memoryBounds 0xF155 State.reset ∧
    s.params.wf = true ∧ s.inputs.host ≠ .reset ∧ s.runState = .faulted := ⟨_, rfl, by decide⟩

theorem witness_FetchIsBigEndian : (runningAt 0x0FFE).pc.toNat % 2 = 0 ∧
    (runningAt 0x0FFE).pc.toNat + 1 < (runningAt 0x0FFE).params.memSize := by decide
theorem witness_cycles (w : Nat) : (ready w State.reset).cycles ∧ quitSeen (ready w State.reset) = false :=
  ⟨⟨rfl, rfl, by simp [ready, State.withFetchWord, placeWord]⟩, rfl⟩
theorem witness_StepRunsTheDecodedInstruction : quitSeen (ready 0x8124 State.reset) = false ∧
    fetch (ready 0x8124 State.reset) = .word 0x8124 ∧ decode false 0x8124 = .instr (.op8XY4 1 2) := by decide
theorem witness_FetchChecksFault_misaligned : (runningAt 0x0FFF).cycles ∧ quitSeen (runningAt 0x0FFF) = false ∧
    (runningAt 0x0FFF).pc.toNat % 2 = 1 := ⟨⟨by decide, by decide, by decide⟩, by decide, by decide⟩
theorem witness_FetchChecksFault_past_the_end : (runningAt 0x1000).cycles ∧ quitSeen (runningAt 0x1000) = false ∧
    (runningAt 0x1000).pc.toNat % 2 = 0 ∧ (runningAt 0x1000).params.memSize ≤ (runningAt 0x1000).pc.toNat + 1 :=
  ⟨⟨by decide, by decide, by decide⟩, by decide, by decide, by decide⟩
theorem witness_UnimplementedWordFaults : quitSeen (ready 0x8AB8 State.reset) = false ∧
    fetch (ready 0x8AB8 State.reset) = .word 0x8AB8 ∧ decode false 0x8AB8 = .unimplementedOpcode 0x8AB8 := by decide
theorem witness_QuitHaltsBeforeTheFetch : ∃ s : State, s = seeing { Inputs.quiet with quit := true } (runningAt 0x0FFF) ∧
    s.cycles ∧ s.phase = .between ∧ s.inputs.quit = true := ⟨_, rfl, ⟨by decide, by decide, by decide⟩, by decide, by decide⟩
theorem witness_CompletedCycleDecrementsBothTimers_completes : ∃ u, decodedAt (ready 0xF215 (regs [(2, 1)])) = some (.opFX15 2) ∧
    (ready 0xF215 (regs [(2, 1)])).cycles ∧ exec (.opFX15 2) (ready 0xF215 (regs [(2, 1)])) = .next u ∧
    u.runState = .running ∧ u.phase = .between ∧ u.DT = 1 ∧ u.ST = 0 :=
  ⟨_, by decide, ⟨by decide, by decide, by decide⟩, rfl, by decide⟩
theorem witness_CompletedCycleDecrementsBothTimers_faults : ∃ u, decodedAt (ready 0x00EE State.reset) = some .op00EE ∧
    exec .op00EE (ready 0x00EE State.reset) = .next u ∧ u.runState ≠ .running := ⟨_, by decide, rfl, by decide⟩
theorem witness_CompletedCycleDecrementsBothTimers_waits : ∃ (s u : State),
    s = ready 0xF30A (seeing { Inputs.quiet with waitKey := .pending } State.reset) ∧ decodedAt s = some (.opFX0A 3) ∧
    exec (.opFX0A 3) s = .next u ∧ u.phase ≠ .between := ⟨_, _, rfl, by decide, rfl, by decide⟩

theorem witness_CallPushesTheReturnAddress : (deep 14 State.reset).SP < (deep 14 State.reset).params.stackLimit := by decide
theorem witness_ReturnPopsIntoPc : 0 < (deep 1 State.reset).SP.val ∧ 0 < (deep 16 State.reset).SP.val := by decide
theorem witness_StackBoundsAreFatal : (deep 15 State.reset).params.stackLimit ≤ (deep 15 State.reset).SP ∧
    State.reset.SP = 0 := by decide
theorem witness_CallThenReturnComesBack : State.reset.SP < State.reset.params.stackLimit := by decide
theorem witness_flag_writers_other_register : (0 : Reg) ≠ VF ∧ (14 : Reg) ≠ VF := by decide
theorem witness_AddToIndexFlagsOverflow : (sized 4098).params.wf = true ∧ (sized 65536).params.wf = true := by decide

theorem witness_StoreDecimalDigits : (atI 0x0FFD []).I.toNat + 3 ≤ (atI 0x0FFD []).params.memSize := by decide
theorem witness_StoreRegistersWritesTheBlock : (atI 0x0FF0 []).I.toNat + (15 : Reg).toNat + 1 ≤ (atI 0x0FF0 []).params.memSize ∧
    (atI 0x0FF1 []).params.memSize < (atI 0x0FF1 []).I.toNat + (15 : Reg).toNat + 1 := by decide
theorem witness_LoadRegistersReadsTheBlock : (atI 0x0FFF []).I.toNat + (0 : Reg).toNat + 1 ≤ (atI 0x0FFF []).params.memSize ∧
    (atI 0x1000 []).params.memSize < (atI 0x1000 []).I.toNat + (0 : Reg).toNat + 1 := by decide
theorem witness_DigitsAndSpriteOutOfBoundsFault : (atI 0x0FFE []).params.memSize < (atI 0x0FFE []).I.toNat + 3 ∧
    (2 : Nibble) ≠ 0 ∧ (atI 0x0FFF []).params.memSize < (atI 0x0FFF []).I.toNat + (2 : Nibble).toNat := by decide
theorem witness_StoreThenLoadRestoresTheRegisters : ∃ (s u v : State), s = atI 0x0300 [(0, 1), (4, 5)] ∧
    s.I.toNat + (4 : Reg).toNat + 1 ≤ s.params.memSize ∧ exec (.opFX55 4) s = .next u ∧ v = (u.setV 0 9).setV 4 9 ∧
    v.params = u.params ∧ v.mem = u.mem ∧ v.I = u.I :=
  ⟨_, _, _, rfl, by decide, rfl, rfl, by decide, by decide, by decide⟩
theorem witness_NextFetchSeesTheStore : 1 ≤ (1 : Reg).toNat ∧ (atI 0x0202 []).I = (atI 0x0202 []).pc + 2 ∧
    (atI 0x0202 []).pc.toNat % 2 = 0 ∧ (atI 0x0202 []).I.toNat + (1 : Reg).toNat + 1 ≤ (atI 0x0202 []).params.memSize := by decide

theorem witness_DrawStoresTheCollision_first : ((5 : Nibble) = 0 ∨ State.reset.I.toNat + (5 : Nibble).toNat ≤
      State.reset.params.memSize) ∧ State.reset.inputs.collided = some false ∧ State.reset.phase ≠ .drawWait := by decide
theorem witness_DrawStoresTheCollision_waited : ∃ s : State, s = (atI 0xFFFF []).setPhase .drawWait ∧
    ((0 : Nibble) = 0 ∨ s.I.toNat + (0 : Nibble).toNat ≤ s.params.memSize) ∧ s.inputs.collided = some false ∧
    s.phase = .drawWait := ⟨_, rfl, by decide⟩
theorem witness_DrawWaitsForTheAnswer : ∃ s : State, s = seeing { Inputs.quiet with collided := none } (atI 0x0FFF []) ∧
    ((1 : Nibble) = 0 ∨ s.I.toNat + (1 : Nibble).toNat ≤ s.params.memSize) ∧ s.inputs.collided = none ∧
    s.phase ≠ .drawWait ∧ (s.setPhase .drawWait).phase = .drawWait := ⟨_, rfl, by decide⟩
theorem witness_WaitKeyStoresTheKey : (seeing { Inputs.quiet with waitKey := .key 7 } State.reset).inputs.waitKey = .key 7 := by
  decide
theorem witness_WaitKeyHoldsTheCore :
    (seeing { Inputs.quiet with waitKey := .pending } State.reset).inputs.waitKey = .pending := by decide
theorem witness_QuitEndsTheKeyWait : (seeing { Inputs.quiet with waitKey := .quit } State.reset).inputs.waitKey = .quit := by
  decide

theorem witness_ExecuteFaultsArePrecise : ∃ t, (runningAt 0x0200).runState = .running ∧
    exec .op00EE (runningAt 0x0200) = .next t ∧ t.runState = .faulted := ⟨_, by decide, rfl, by decide⟩
theorem witness_TwentyEightInstructionsNeverFault : (Instr.op00E0 ≠ .op00EE) ∧ (∀ nnn, Instr.op00E0 ≠ .op2NNN nnn) ∧
    (∀ x y n, Instr.op00E0 ≠ .opDXYN x y n) ∧ (∀ x, Instr.op00E0 ≠ .opFX33 x) ∧ (∀ x, Instr.op00E0 ≠ .opFX55 x) ∧
    (∀ x, Instr.op00E0 ≠ .opFX65 x) := by simp
theorem witness_OnlyTwoInstructionsWriteMemory : ∃ t, exec (.opFX55 0) (regs [(0, 1)]) = .next t ∧
    t.readByte 0 ≠ (regs [(0, 1)]).readByte 0 := ⟨_, rfl, by decide⟩
theorem witness_OnlyCallAndReturnTouchTheStack : ∃ t, exec (.op2NNN 0x300) State.reset = .next t ∧
    t.SP ≠ State.reset.SP ∧ t.stack[0] ≠ State.reset.stack[0] := ⟨_, rfl, by decide⟩
theorem witness_OnlyFlagWritersTouchVF : ∃ t, exec (.op8XY5 1 2) State.reset = .next t ∧
    t.getV VF ≠ State.reset.getV VF := ⟨_, rfl, by decide⟩
theorem witness_AnswersReachFiveInstructions : ∃ t, exec (.op8XY4 1 2) State.reset = .next t ∧
    (∀ x nn, Instr.op8XY4 1 2 ≠ .opCXNN x nn) ∧ (∀ x y n, Instr.op8XY4 1 2 ≠ .opDXYN x y n) ∧
    (∀ x, Instr.op8XY4 1 2 ≠ .opEX9E x) ∧ (∀ x, Instr.op8XY4 1 2 ≠ .opEXA1 x) ∧ (∀ x, Instr.op8XY4 1 2 ≠ .opFX0A x) :=
  ⟨_, rfl, by simp⟩
theorem witness_EveryStepAnswers : State.reset.params.wf = true := by decide

theorem witness_StepKeepsMemoryCanonical : ∃ t, (ready 0xF055 (atI 0x0300 [(0, 1)])).memoryCanonical ∧
    step (ready 0xF055 (atI 0x0300 [(0, 1)])) = .next t := ⟨_, by unfold State.memoryCanonical; decide, rfl⟩
theorem witness_StepKeepsDepthWithinLimit : ∃ t, (ready 0x2300 (deep 14 State.reset)).depthWithinLimit ∧
    step (ready 0x2300 (deep 14 State.reset)) = .next t := ⟨_, by unfold State.depthWithinLimit; decide, rfl⟩
theorem witness_StepKeepsFaultRecordAgrees : ∃ t, (ready 0x00EE State.reset).faultRecordAgrees ∧
    step (ready 0x00EE State.reset) = .next t := ⟨_, by unfold State.faultRecordAgrees; decide, rfl⟩
theorem witness_StepKeepsWaitAgrees : ∃ s t : State,
    s = (ready 0xF30A (seeing { Inputs.quiet with waitKey := .pending } State.reset)).setPhase .keyWait ∧
    s.waitAgrees ∧ step s = .next t :=
  ⟨_, _, rfl, ⟨by decide, fun _ => ⟨3, by decide⟩, by decide⟩, rfl⟩
theorem witness_DecodeOfEncodeIsTheInstruction : Instr.wf (.op9XY0 1 2 0) = true := by decide
theorem witness_EncodeOfDecodeIsTheWord : decode true 0x9120 = .instr (.op9XY0 1 2 0) ∧
    decode false 0x912F = .instr (.op9XY0 1 2 15) := by decide
theorem witness_UnimplementedWordsAreTheTable : decode false 0x0000 = .unimplementedOpcode 0x0000 ∧
    decode false 0x8008 = .unimplementedOpcode 0x8008 ∧ decode false 0x800F = .unimplementedOpcode 0x800F ∧
    decode false 0xE000 = .unimplementedOpcode 0xE000 ∧ decode false 0xF000 = .unimplementedOpcode 0xF000 := by decide

end Sys2Proof.Tests
end

section
/-! Proofs of the state family: reset, the run states and the cycle, what an execute step does to the stack, to `VF` and to
the phase, and the invariants of the depth and of the wait (spec/10_state.md R12, R18, R19, R26, R30 to R35). -/

namespace Sys2Proof.Machine

variable {l l' : List Part} {s t : State} {i : Instr}

/-! ### Frames: what a changed part says, and a listed part that did not change -/

/-- A part that differs is one the frame lists. -/
theorem Only.mem_of_changed {p : Part} (h : Only l s t) (hp : ¬ Same s t p) : p ∈ l :=
  not_imp_comm.mp (h p) hp

/-- A listed part that did not change after all may be left out of the list. -/
theorem Only.drop {q : Part} (h : Only l s t) (hq : Same s t q) (hl : ∀ p ∈ l, p = q ∨ p ∈ l') : Only l' s t := by
  intro p hp
  by_cases hpl : p ∈ l
  · obtain rfl := (hl p hpl).resolve_right hp
    exact hq
  · exact h p hpl

/-! ### Reset (10_state R35, 20_memory R46, R47) -/

/-- The reset contents at a glyph's address are its byte in `FONT`. -/
theorem resetByte_glyph (p : Params) (d : Fin 16) (r : Fin 5) :
    resetByte p (d.val * 10 + r.val) = p.font[d.val][r.val] := by
  have hd : (d.val * 10 + r.val) / 10 = d.val := by omega
  have hr : (d.val * 10 + r.val) % 10 = r.val := by omega
  simp [resetByte, hd, hr]

/-- The reset contents outside the glyphs are 0. -/
theorem resetByte_of_no_glyph (p : Params) {a : Nat} (h : ∀ (d : Fin 16) (r : Fin 5), a ≠ d.val * 10 + r.val) :
    resetByte p a = 0 := by
  refine dif_neg fun hg => h ⟨a / 10, hg.1⟩ ⟨a % 10, hg.2⟩ ?_
  show a = a / 10 * 10 + a % 10
  omega

/-- After reset every address reads as its reset contents. -/
theorem readByte_resetWith (p : Params) (a : Nat) : (State.resetWith p).readByte a = resetByte p a := rfl

theorem getV_resetWith (p : Params) (x : Reg) : (State.resetWith p).getV x = 0 := by
  simp [State.getV, State.resetWith]

/-- Settles O1: the fields by definition, the memory by the two lemmas on its reset contents. -/
theorem resetLeavesTheResetValues : Obligations.ResetLeavesTheResetValues := by
  intro p
  refine ⟨_, rfl, rfl, rfl, getV_resetWith p, rfl, rfl, rfl, rfl, rfl, rfl, rfl, rfl, fun d r => ?_, fun a ha => ?_⟩
  · rw [readByte_resetWith, resetByte_glyph]
  · rw [readByte_resetWith, resetByte_of_no_glyph p ha]

/-! ### Steps of a stopped core, and the ways a cycle goes -/

/-- The step of an `Idle` core without a reset is the host's act (10_state R26). -/
theorem step_of_idle (hw : s.params.wf = true) (hh : s.inputs.host ≠ .reset) (hr : s.runState = .idle) :
    step s = .next (s.idleAct s.inputs.host).redraw := by
  simp [step, machineStep, hw, hh, hr]

/-- A core that is `Halted` or `Faulted` only draws its next inputs (10_state R26). -/
theorem step_of_stopped (hw : s.params.wf = true) (hh : s.inputs.host ≠ .reset)
    (hr : s.runState = .halted ∨ s.runState = .faulted) : step s = .next s.redraw := by
  obtain hr | hr := hr <;> simp [step, machineStep, hw, hh, hr]

/-- Settles O5: in each of the three cases the step is the redraw alone. -/
theorem stoppedCoreHoldsItsState : Obligations.StoppedCoreHoldsItsState := by
  intro s hw hh hstop
  refine ⟨s.redraw, ?_, only_redraw s⟩
  obtain ⟨hidle, hnone⟩ | hstopped := hstop
  · rw [step_of_idle hw hh hidle, hnone]
    rfl
  · exact step_of_stopped hw hh hstopped

/-- `FetchCheck` passes at an even `pc` in range, and the fetch is the word there (20_memory R44). -/
theorem fetch_of_even_of_lt (heven : s.pc.toNat % 2 = 0) (hlt : s.pc.toNat + 1 < s.params.memSize) :
    fetch s = .word (wordOfBytes (s.readByte s.pc.toNat) (s.readByte (s.pc.toNat + 1))) := by
  have hlsb : ¬ s.pc.getLsbD 0 = true := by
    rw [pc_lsb_eq, heven]
    decide
  rw [fetch, if_neg hlsb, if_neg (Nat.not_le.mpr hlt)]

/-- Settles O6: the fetched word as a number. -/
theorem fetchIsBigEndian : Obligations.FetchIsBigEndian := fun _ heven hlt =>
  ⟨_, fetch_of_even_of_lt heven hlt, toNat_wordOfBytes _ _⟩

/-- A quit that is seen is the whole cycle (10_state R34). -/
theorem cycle_of_quitSeen (h : quitSeen s = true) : cycle s = .next s.halt.redraw := by
  simp [cycle, h]

/-- Settles O10: the step is `halt` and the redraw; the phase that `halt` writes was `between` already. -/
theorem quitHaltsBeforeTheFetch : Obligations.QuitHaltsBeforeTheFetch := by
  intro s hc hphase hquit
  have hseen : quitSeen s = true := by simp [quitSeen, hphase, hquit]
  refine ⟨s.halt.redraw, by rw [step_of_cycles hc, cycle_of_quitSeen hseen], rfl, ?_⟩
  have hframe := (only_halt s).append (only_redraw s.halt)
  exact hframe.drop (q := .phase) hphase.symm (by simp)

/-- Settles O7: a cycle that sees no quit and whose word decodes is `executed`, which is the statement's right side. -/
theorem stepRunsTheDecodedInstruction : Obligations.StepRunsTheDecodedInstruction := by
  intro s w i hc hq hf hd
  rw [step_of_cycles hc, cycle_of_decode hq hf hd]
  rfl

/-- The instruction at `pc` is what the fetched word decodes to. -/
theorem decodedAt_eq_some_iff :
    decodedAt s = some i ↔ ∃ w, fetch s = .word w ∧ decode s.params.strictLowNibble w = .instr i := by
  unfold decodedAt
  cases fetch s with
  | fail c => simp
  | word w => cases hd : decode s.params.strictLowNibble w <;> simp [Decoded.instr?, hd]

/-- The step at an instruction whose execute step answers `t` closes the cycle from `t` (10_state R30). -/
theorem step_of_decodedAt (hc : s.cycles) (hq : quitSeen s = false) (hd : decodedAt s = some i)
    (he : exec i s = .next t) : step s = .next (finish t).redraw := by
  obtain ⟨w, hf, hw⟩ := decodedAt_eq_some_iff.mp hd
  rw [step_of_cycles hc, cycle_of_decode hq hf hw, executed, he]

/-- A completed execute step is closed by the decrement of both timers (10_state R33). -/
theorem finish_of_completed (hr : t.runState = .running) (hp : t.phase = .between) : finish t = t.tickTimers :=
  if_pos ⟨hr, hp⟩

/-- One that faulted, halted or still waits is closed by nothing (10_state R33). -/
theorem finish_of_not_completed (h : t.runState ≠ .running ∨ t.phase ≠ .between) : finish t = t :=
  if_neg (not_and_or.mpr h)

/-- Settles O11: `finish` is `tickTimers` after a completed execute step, and nothing otherwise. -/
theorem completedCycleDecrementsBothTimers : Obligations.CompletedCycleDecrementsBothTimers := by
  intro s u i hc hq hd he
  have hstep := step_of_decodedAt hc hq hd he
  refine ⟨fun hr hp => ?_, fun hn => ?_⟩
  · rw [finish_of_completed hr hp] at hstep
    exact ⟨_, hstep, toNat_tick u.DT, toNat_tick u.ST, (only_tickTimers u).append (only_redraw _)⟩
  · rw [finish_of_not_completed hn] at hstep
    exact ⟨_, hstep, only_redraw u⟩

/-! ### The call stack (10_state R18, R19) -/

/-- Only a call and a return may change the depth. -/
theorem isCallOrReturn_of_SP_mem (h : .SP ∈ mayChange s i) : i = .op00EE ∨ ∃ nnn, i = .op2NNN nnn := by
  cases i <;> simp [mayChange, faultParts, blockParts, regParts] at h ⊢

/-- Only a call may change a slot, the one at the depth before it. -/
theorem isCall_of_slot_mem {k : Fin 16} (h : .slot k ∈ mayChange s i) : k.val = s.SP.val ∧ ∃ nnn, i = .op2NNN nnn := by
  cases i <;> simp [mayChange, faultParts, blockParts, regParts] at h ⊢
  exact h

/-- Settles O48: a part that changed is one the instruction's frame lists. -/
theorem onlyCallAndReturnTouchTheStack : Obligations.OnlyCallAndReturnTouchTheStack := fun _ _ _ h =>
  ⟨fun hSP => isCallOrReturn_of_SP_mem ((exec_only h).mem_of_changed (p := .SP) hSP),
   fun k hk => isCall_of_slot_mem ((exec_only h).mem_of_changed (p := .slot k) hk)⟩

/-- What an execute step can do to the depth: nothing, take one off, or, below the limit, put one on. -/
theorem exec_SP_cases (h : exec i s = .next t) :
    t.SP = s.SP ∨ t.SP.val + 1 = s.SP.val ∨ (s.SP < s.params.stackLimit ∧ t.SP.val = s.SP.val + 1) := by
  by_cases hSP : t.SP = s.SP
  · exact .inl hSP
  obtain rfl | ⟨nnn, rfl⟩ := isCallOrReturn_of_SP_mem ((exec_only h).mem_of_changed (p := .SP) hSP)
  case inl =>
    simp only [exec, exec00EE] at h
    split at h <;> obtain rfl := Host.Outcome.next.inj h
    · obtain ⟨k, hk, -, hpop, -⟩ := pop_eq_some ‹_›
      exact .inr (.inl (by simp [hpop, hk]))
    · exact .inl rfl
  case inr =>
    simp only [exec, exec2NNN] at h
    split at h <;> obtain rfl := Host.Outcome.next.inj h
    · obtain ⟨-, -, hlt, -, hpush, -⟩ := push_eq_some ‹_›
      exact .inr (.inr ⟨hlt, hpush⟩)
    · exact .inl rfl

theorem exec_keeps_depthWithinLimit (hs : s.depthWithinLimit) (h : exec i s = .next t) : t.depthWithinLimit := by
  unfold State.depthWithinLimit at hs ⊢
  rw [exec_params h, Fin.le_def]
  rw [Fin.le_def] at hs
  obtain hSP | hSP | ⟨hlt, hSP⟩ := exec_SP_cases h
  · rw [hSP]
    exact hs
  · omega
  · rw [hSP]
    exact Fin.lt_def.mp hlt

/-! ### Invariants of the step, once -/

/-- Each piece a step is made of keeps `P` (10_state R26, R30; 60_exceptions R173), an execute step where it is run: in a
running core, at the instruction at `pc`. -/
structure KeptByPieces (P : State → Prop) : Prop where
  reset : ∀ s : State, P s.hostReset
  load : ∀ (s : State) (image : List Byte), s.params.wf = true → s.runState = .idle → P s → P (s.hostLoad image)
  run : ∀ s : State, s.runState = .idle → P s → P s.hostRun
  halt : ∀ s : State, P s → P s.halt
  raise : ∀ (c : Condition) (w : Word) (s : State), P s → P (raise c w s)
  exec : ∀ (i : Instr) (s t : State), s.runState = .running → decodedAt s = some i → exec i s = .next t → P s → P t
  finish : ∀ s : State, P s → P (finish s)
  redraw : ∀ s : State, P s → P s.redraw

/-- What every piece of a step keeps, every step keeps. -/
theorem KeptByPieces.step {P : State → Prop} (k : KeptByPieces P) (hs : P s) (h : step s = .next t) : P t := by
  obtain ⟨hw, ⟨-, rfl⟩ | ⟨-, hr, rfl⟩ | ⟨-, hr, hc⟩ | ⟨-, -, rfl⟩⟩ := step_cases h
  case inl => exact k.redraw _ (k.reset s)
  case inr.inl =>
    refine k.redraw _ ?_
    cases s.inputs.host with
    | none => exact hs
    | reset => exact k.reset s
    | load image => exact k.load s image hw hr hs
    | run => exact k.run s hr hs
  case inr.inr.inl =>
    obtain ⟨-, rfl⟩ | ⟨-, c, -, rfl⟩ | ⟨-, w, w', -, -, rfl⟩ | ⟨-, w, i, u, hf, hd, hu, rfl⟩ := cycle_cases hc
    · exact k.redraw _ (k.halt s hs)
    · exact k.redraw _ (k.raise c 0 s hs)
    · exact k.redraw _ (k.raise _ w' s hs)
    · exact k.redraw _ (k.finish u (k.exec i s u hr (decodedAt_eq_some_iff.mpr ⟨w, hf, hd⟩) hu hs))
  case inr.inr.inr => exact k.redraw _ hs

/-! ### The depth stays within the limit (10_state R19) -/

/-- The limit holds where depth and parameters are as in a state where it holds. -/
theorem State.depthWithinLimit.congr (hs : s.depthWithinLimit) (hSP : t.SP = s.SP) (hp : t.params = s.params) :
    t.depthWithinLimit := by
  unfold State.depthWithinLimit
  rw [hSP, hp]
  exact hs

theorem depthWithinLimit_keptByPieces : KeptByPieces State.depthWithinLimit where
  reset _ := Fin.zero_le _
  load s image _ _ hs := by
    unfold State.hostLoad
    split <;> exact hs
  run _ _ hs := hs
  halt _ hs := hs
  raise _ _ _ hs := hs
  exec _ _ _ _ _ he hs := exec_keeps_depthWithinLimit hs he
  finish s hs := hs.congr ((only_finish s).same (p := .SP) (by simp)) ((only_finish s).same (p := .params) (by simp))
  redraw _ hs := hs

/-- Settles O53: every piece of a step keeps the limit; the one that deepens the stack is a push below it. -/
theorem stepKeepsDepthWithinLimit : Obligations.StepKeepsDepthWithinLimit := fun _ _ hs h =>
  depthWithinLimit_keptByPieces.step hs h

/-! ### A wait stands at an instruction that may wait (10_state R32) -/

/-- Between cycles nothing waits. -/
theorem waitAgrees_of_between (h : s.phase = .between) : s.waitAgrees := by
  simp [State.waitAgrees, h]

/-- The instruction at `pc` depends on `pc`, the memory and the parameters alone. -/
theorem decodedAt_congr (hpc : t.pc = s.pc) (hp : t.params = s.params) (hm : ∀ a, t.readByte a = s.readByte a) :
    decodedAt t = decodedAt s := by
  simp only [decodedAt, fetch, hpc, hp, hm]

/-- The parts a wait does not depend on. -/
def waitFreeParts : List Part := [.DT, .ST, .inputs, .draws, .sent]

/-- No change of the timers, the log or the draws touches a wait. -/
theorem State.waitAgrees.frame (hs : s.waitAgrees) (h : Only waitFreeParts s t) : t.waitAgrees := by
  have hrun : t.runState = s.runState := h.same (p := .runState) (by simp [waitFreeParts])
  have hphase : t.phase = s.phase := h.same (p := .phase) (by simp [waitFreeParts])
  have hI : t.I = s.I := h.same (p := .I) (by simp [waitFreeParts])
  have hparams : t.params = s.params := h.same (p := .params) (by simp [waitFreeParts])
  have hat : decodedAt t = decodedAt s :=
    decodedAt_congr (h.same (p := .pc) (by simp [waitFreeParts])) hparams
      fun a => h.same (p := .byte a) (by simp [waitFreeParts])
  simpa [State.waitAgrees, State.blockFits, hrun, hphase, hI, hparams, hat] using hs

/-- What an execute step can do to the phase: leave the core between cycles, keep the phase in an instruction that has no
wait, or wait in FX0A or in a DXYN whose block fits, where nothing but the phase and the log has changed. -/
theorem exec_phase_cases (h : exec i s = .next t) :
    t.phase = .between ∨
    (t.phase = s.phase ∧ (∀ x, i ≠ .opFX0A x) ∧ ∀ x y n, i ≠ .opDXYN x y n) ∨
    (Only [.phase, .sent] s t ∧ t.phase = .keyWait ∧ ∃ x, i = .opFX0A x) ∨
    (Only [.phase, .sent] s t ∧ t.phase = .drawWait ∧ ∃ x y n, i = .opDXYN x y n ∧ s.blockFits n.toNat = true) := by
  cases i with
  | opFX0A x =>
    simp only [exec, execFX0A] at h
    split at h <;> obtain rfl := Host.Outcome.next.inj h
    · exact .inl rfl
    · exact .inr (.inr (.inl
        ⟨((only_keyAsked s).mono (by simp)).then (only_setPhase _ _) (by simp), rfl, x, rfl⟩))
    · exact .inl rfl
  | opDXYN x y n =>
    simp only [exec, execDXYN] at h
    split at h
    · split at h <;> obtain rfl := Host.Outcome.next.inj h
      · exact .inl rfl
      · exact .inr (.inr (.inr
          ⟨((only_spriteSent x y n s).mono (by simp)).then (only_setPhase _ _) (by simp), rfl, x, y, n, rfl, ‹_›⟩))
    · obtain rfl := Host.Outcome.next.inj h
      exact .inl rfl
  | op00EE =>
    simp only [exec, exec00EE] at h
    split at h <;> obtain rfl := Host.Outcome.next.inj h
    · obtain ⟨-, -, -, -, ho⟩ := pop_eq_some ‹_›
      exact .inr (.inl ⟨ho.same (p := .phase) (by simp), by simp, by simp⟩)
    · exact .inl rfl
  | op2NNN nnn =>
    simp only [exec, exec2NNN] at h
    split at h <;> obtain rfl := Host.Outcome.next.inj h
    · obtain ⟨k, -, -, -, -, ho⟩ := push_eq_some ‹_›
      exact .inr (.inl ⟨ho.same (p := .phase) (by simp), by simp, by simp⟩)
    · exact .inl rfl
  | opFX33 | opFX55 | opFX65 =>
    simp only [exec, execFX33, execFX55, execFX65] at h
    split at h <;> obtain rfl := Host.Outcome.next.inj h
    · exact .inr (.inl ⟨rfl, by simp, by simp⟩)
    · exact .inl rfl
  | _ => exact .inr (.inl ⟨(exec_only h).same (p := .phase) (by simp [mayChange]), by simp, by simp⟩)

/-- At an instruction that has no wait, the core is between cycles. -/
theorem State.waitAgrees.between_of_no_wait (hs : s.waitAgrees) (hd : decodedAt s = some i)
    (hkey : ∀ x, i ≠ .opFX0A x) (hdraw : ∀ x y n, i ≠ .opDXYN x y n) : s.phase = .between := by
  obtain ⟨-, hk, hw⟩ := hs
  cases hph : s.phase with
  | between => rfl
  | keyWait =>
    obtain ⟨x, hx⟩ := hk hph
    exact absurd (Option.some.inj (hd.symm.trans hx)) (hkey x)
  | drawWait =>
    obtain ⟨x, y, n, hx, -⟩ := hw hph
    exact absurd (Option.some.inj (hd.symm.trans hx)) (hdraw x y n)

/-- An execute step of a running core that waits leaves a wait at the instruction at `pc`, which has not moved. -/
theorem exec_keeps_waitAgrees (hr : s.runState = .running) (hd : decodedAt s = some i) (h : exec i s = .next t)
    (hs : s.waitAgrees) : t.waitAgrees := by
  have hheld (ho : Only [.phase, .sent] s t) : t.runState = .running ∧ decodedAt t = some i ∧
      ∀ n, t.blockFits n = s.blockFits n := by
    have hparams : t.params = s.params := ho.same (p := .params) (by simp)
    have hI : t.I = s.I := ho.same (p := .I) (by simp)
    have hrun : t.runState = s.runState := ho.same (p := .runState) (by simp)
    refine ⟨hrun.trans hr, ?_, fun n => by simp [State.blockFits, hparams, hI]⟩
    rw [← hd]
    exact decodedAt_congr (ho.same (p := .pc) (by simp)) hparams fun a => ho.same (p := .byte a) (by simp)
  obtain hb | ⟨hp, hkey, hdraw⟩ | ⟨ho, hp, x, rfl⟩ | ⟨ho, hp, x, y, n, rfl, hfit⟩ := exec_phase_cases h
  · exact waitAgrees_of_between hb
  · exact waitAgrees_of_between (hp.trans (hs.between_of_no_wait hd hkey hdraw))
  · obtain ⟨hrun, hat, -⟩ := hheld ho
    exact ⟨fun hn => absurd hrun hn, fun _ => ⟨x, hat⟩, by simp [hp]⟩
  · obtain ⟨hrun, hat, hblock⟩ := hheld ho
    exact ⟨fun hn => absurd hrun hn, by simp [hp], fun _ => ⟨x, y, n, hat, (hblock _).trans hfit⟩⟩

/-- An idle core is between cycles. -/
theorem State.waitAgrees.between_of_idle (hs : s.waitAgrees) (h : s.runState = .idle) : s.phase = .between :=
  hs.1 (by simp [h])

theorem waitAgrees_keptByPieces : KeptByPieces State.waitAgrees where
  reset _ := waitAgrees_of_between rfl
  load s image _ hr hs := by
    have hb := hs.between_of_idle hr
    unfold State.hostLoad
    split <;> exact waitAgrees_of_between hb
  run _ hr hs := waitAgrees_of_between (hs.between_of_idle hr)
  halt _ _ := waitAgrees_of_between rfl
  raise _ _ _ _ := waitAgrees_of_between rfl
  exec _ _ _ hr hd he hs := exec_keeps_waitAgrees hr hd he hs
  finish s hs := hs.frame ((only_finish s).mono (by simp [waitFreeParts]))
  redraw s hs := hs.frame ((only_redraw s).mono (by simp [waitFreeParts]))

/-- Settles O55: the only pieces of a step that leave a wait are an FX0A and a DXYN that wait at `pc`. -/
theorem stepKeepsWaitAgrees : Obligations.StepKeepsWaitAgrees := fun _ _ hs h => waitAgrees_keptByPieces.step hs h

/-- Settles O56: each invariant of the reset state, whose phase is `between`. -/
theorem resetMeetsTheInvariants : Obligations.ResetMeetsTheInvariants := fun p =>
  ⟨wf_resetWith p, Fin.zero_le _, by simp [State.faultRecordAgrees, State.resetWith], waitAgrees_of_between rfl⟩

/-! ### Who writes `VF` (10_state R12) -/

/-- The seven instructions that write the flag. -/
def WritesFlag (i : Instr) : Prop :=
  (∃ x y, i = .op8XY4 x y ∨ i = .op8XY5 x y ∨ i = .op8XY6 x y ∨ i = .op8XY7 x y ∨ i = .op8XYE x y) ∨
    (∃ x y n, i = .opDXYN x y n) ∨ ∃ x, i = .opFX1E x

/-- The instructions whose plain destination is `V[15]`. -/
def WritesPlainVF (i : Instr) : Prop :=
  (∃ nn, i = .op6XNN VF nn ∨ i = .op7XNN VF nn ∨ i = .opCXNN VF nn) ∨
    (∃ y, i = .op8XY0 VF y ∨ i = .op8XY1 VF y ∨ i = .op8XY2 VF y ∨ i = .op8XY3 VF y) ∨
    i = .opFX07 VF ∨ i = .opFX0A VF ∨ i = .opFX65 VF

/-- A block of registers reaches `VF` only when it ends there. -/
theorem eq_VF_of_mem_regParts {x : Reg} (h : .reg VF ∈ regParts x) : x = VF := by
  obtain ⟨k, hk, he⟩ := List.mem_map.mp h
  have hlt := List.mem_range.mp hk
  have hx := x.isLt
  have hkVF : k % 16 = 15 := by
    have := congrArg BitVec.toNat (Part.reg.inj he)
    simpa [VF] using this
  apply BitVec.eq_of_toNat_eq
  show x.toNat = 15
  omega

/-- Only a flag writer and a plain write to `V[15]` may change `VF`: a frame that lists it names `VF` itself, or a
destination `x` that is 15, or a block of registers that ends there. -/
theorem writes_of_VF_mem (h : .reg VF ∈ mayChange s i) : WritesFlag i ∨ WritesPlainVF i := by
  cases i with
  | opFX65 x =>
    obtain rfl : x = VF := eq_VF_of_mem_regParts (by simpa [mayChange, faultParts] using h)
    simp [WritesPlainVF]
  | _ =>
    simp [mayChange, faultParts, blockParts] at h <;>
      simp [WritesFlag, WritesPlainVF, *]

/-- A DXYN leaves `VF` alone while it waits and when it faults, and is answered by 0 or 1 (46_random_display R144). -/
theorem execDXYN_VF {x y : Reg} {n : Nibble} (h : exec (.opDXYN x y n) s = .next t) :
    t.getV VF = s.getV VF ∨ ∃ c, t.getV VF = flagByte c := by
  have hsent : (spriteSent x y n s).getV VF = s.getV VF := (only_spriteSent x y n s).same (p := .reg VF) (by simp)
  simp only [exec, execDXYN] at h
  split at h
  · split at h <;> obtain rfl := Host.Outcome.next.inj h
    · exact .inr ⟨_, getV_setV_self _ VF _⟩
    · exact .inl hsent
  · obtain rfl := Host.Outcome.next.inj h
    exact .inl rfl

/-- "A flag write always stores exactly 0 or 1" (10_state R12), of each flag writer that changes `VF`. -/
theorem VF_bit_of_writesFlag (hi : WritesFlag i) (h : exec i s = .next t) (hne : t.getV VF ≠ s.getV VF) :
    t.getV VF = 0 ∨ t.getV VF = 1 := by
  suffices hc : ∃ c, t.getV VF = flagByte c by
    obtain ⟨c, hc⟩ := hc
    rw [hc]
    exact flagByte_bit c
  obtain ⟨x, y, rfl | rfl | rfl | rfl | rfl⟩ | ⟨x, y, n, rfl⟩ | ⟨x, rfl⟩ := hi
  case inr.inl => exact (execDXYN_VF h).resolve_left hne
  all_goals
    obtain rfl := Host.Outcome.next.inj h
    exact ⟨_, getV_setV_self _ VF _⟩

/-- Settles O49: a changed `VF` is in the instruction's frame, and a flag writer leaves a bit there. -/
theorem onlyFlagWritersTouchVF : Obligations.OnlyFlagWritersTouchVF := fun _ _ _ h hne =>
  (writes_of_VF_mem ((exec_only h).mem_of_changed (p := .reg VF) hne)).imp_left
    fun hi => ⟨VF_bit_of_writesFlag hi h hne, hi⟩

end Sys2Proof.Machine
end

section
/-! Proofs of the memory family: who writes memory and where, the canonical form along a step, the fetch after a store, and
the fatal fetches and blocks (spec/20_memory.md R40 to R55). -/

namespace Sys2Proof.Machine

variable {s t : State} {i : Instr}

/-! ### The memory list through the pieces of the meanings, none of which but a block store touches it -/

@[simp] theorem skipIf_mem (s : State) (c : Bool) : (s.skipIf c).mem = s.mem := by
  unfold State.skipIf
  split <;> rfl

@[simp] theorem spriteSent_mem (x y : Reg) (n : Nibble) (s : State) : (spriteSent x y n s).mem = s.mem := by
  unfold spriteSent
  split <;> rfl

@[simp] theorem keyAsked_mem (s : State) : (keyAsked s).mem = s.mem := by
  unfold keyAsked
  split <;> rfl

@[simp] theorem keyQuit_mem (x : Reg) (s : State) : (keyQuit x s).mem = s.mem := by
  simp [keyQuit, apply_ite State.mem, State.advance]

theorem push_mem {v : Word} (h : s.push v = some t) : t.mem = s.mem := by
  unfold State.push at h
  split at h
  · obtain rfl := Option.some.inj h
    rfl
  · cases h

theorem pop_mem {w : Word} (h : s.pop = some (w, t)) : t.mem = s.mem := by
  unfold State.pop at h
  split at h
  · obtain ⟨-, rfl⟩ := Prod.mk.inj (Option.some.inj h)
    rfl
  · cases h

/-! ### The two stores: a block that fits is written, one that does not is fatal (20_memory R50) -/

/-- `i` stores a block of `len` bytes at `I`: the three digits of FX33 or the registers of FX55. -/
def StoresBlock (i : Instr) (len : Nat) : Prop :=
  ∃ x : Reg, i = .opFX33 x ∧ len = 3 ∨ i = .opFX55 x ∧ len = x.toNat + 1

/-- A block of at least one byte fits exactly when it ends in memory; there is no wrap (20_memory R50). -/
theorem blockFits_succ_iff (s : State) (k : Nat) :
    s.blockFits (k + 1) = true ↔ s.I.toNat + (k + 1) ≤ s.params.memSize := by
  simp [blockFits_iff]

/-- What an execute step can do to the memory list: nothing, or write a block at `I` that fits, and that only in FX33 and
FX55 (20_memory R41, R50). -/
theorem exec_mem_cases (h : exec i s = .next t) :
    t.mem = s.mem ∨ ∃ bs : List Byte, StoresBlock i bs.length ∧ s.I.toNat + bs.length ≤ s.params.memSize ∧
      t.mem = Memory.writeList s.params s.I.toNat bs s.mem := by
  cases i with
  | opFX33 x =>
    simp only [exec, execFX33] at h
    split at h <;> obtain rfl := Host.Outcome.next.inj h
    · exact .inr ⟨bcdDigits (s.getV x), ⟨x, .inl ⟨rfl, rfl⟩⟩, (blockFits_succ_iff s 2).mp ‹_›, rfl⟩
    · exact .inl rfl
  | opFX55 x =>
    simp only [exec, execFX55] at h
    split at h <;> obtain rfl := Host.Outcome.next.inj h
    · refine .inr ⟨s.regBlock x, ⟨x, .inr ⟨rfl, length_regBlock s x⟩⟩, ?_, rfl⟩
      rw [length_regBlock]
      exact (blockFits_succ_iff s x.toNat).mp ‹_›
    · exact .inl rfl
  | op00EE =>
    simp only [exec, exec00EE] at h
    split at h <;> obtain rfl := Host.Outcome.next.inj h
    · exact .inl ((jump_mem _ _).trans (pop_mem ‹_›))
    · exact .inl rfl
  | op2NNN nnn =>
    simp only [exec, exec2NNN] at h
    split at h <;> obtain rfl := Host.Outcome.next.inj h
    · exact .inl ((jump_mem _ _).trans (push_mem ‹_›))
    · exact .inl rfl
  | opDXYN x y n =>
    simp only [exec, execDXYN] at h
    split at h
    · split at h <;> obtain rfl := Host.Outcome.next.inj h
      · exact .inl (spriteSent_mem x y n s)
      · exact .inl (spriteSent_mem x y n s)
    · obtain rfl := Host.Outcome.next.inj h
      exact .inl rfl
  | opFX0A x =>
    simp only [exec, execFX0A] at h
    split at h <;> obtain rfl := Host.Outcome.next.inj h
    · exact .inl (keyAsked_mem s)
    · exact .inl (keyAsked_mem s)
    · exact .inl ((keyQuit_mem x _).trans (keyAsked_mem s))
  | opFX65 x =>
    simp only [exec, execFX65] at h
    split at h <;> obtain rfl := Host.Outcome.next.inj h <;> exact .inl rfl
  | op3XNN | op4XNN | op5XY0 | op9XY0 | opEX9E | opEXA1 =>
    obtain rfl := Host.Outcome.next.inj h
    exact .inl (skipIf_mem _ _)
  | _ =>
    obtain rfl := Host.Outcome.next.inj h
    exact .inl rfl

/-! ### The canonical form (log 19) -/

/-- The form is one of the memory list and `MEM_SIZE` alone. -/
theorem State.memoryCanonical.congr (hs : s.memoryCanonical) (hp : t.params = s.params) (hm : t.mem = s.mem) :
    t.memoryCanonical := by
  unfold State.memoryCanonical
  rw [hp, hm]
  exact hs

/-- Bytes written wholly below `MEM_SIZE` keep the form. -/
theorem State.memoryCanonical.writeBytes {a : Nat} {bs : List Byte} (hs : s.memoryCanonical)
    (h : a + bs.length ≤ s.params.memSize) : (s.writeBytes a bs).memoryCanonical :=
  wf_writeList s.params h hs

theorem exec_keeps_memoryCanonical (hs : s.memoryCanonical) (h : exec i s = .next t) : t.memoryCanonical := by
  have hp := exec_params h
  obtain hm | ⟨bs, -, hfit, hm⟩ := exec_mem_cases h
  · exact hs.congr hp hm
  · exact (hs.writeBytes hfit).congr hp hm

/-- Legal parameters leave room above `PROG_BASE`, so an image that is accepted ends in memory (00_scope R5). -/
theorem hostLoad_keeps_memoryCanonical (image : List Byte) (hw : s.params.wf = true) (hs : s.memoryCanonical) :
    (s.hostLoad image).memoryCanonical := by
  have hsize : 4096 ≤ s.params.memSize := by
    obtain ⟨⟨hsize, -⟩, -⟩ := by simpa only [Params.wf, Bool.and_eq_true, decide_eq_true_eq] using hw
    exact hsize
  unfold State.hostLoad
  split
  case isTrue hlen =>
    rw [progBase_toNat] at hlen ⊢
    exact hs.writeBytes (by omega)
  case isFalse => exact hs

theorem finish_mem (t : State) : (finish t).mem = t.mem := by
  unfold finish
  split <;> rfl

theorem memoryCanonical_keptByPieces : KeptByPieces State.memoryCanonical where
  reset s := wf_resetWith s.params
  load _ image hw _ hs := hostLoad_keeps_memoryCanonical image hw hs
  run _ _ hs := hs
  halt _ hs := hs
  raise _ _ _ hs := hs
  exec _ _ _ _ _ he hs := exec_keeps_memoryCanonical hs he
  finish s hs := hs.congr ((only_finish s).same (p := .params) (by simp)) (finish_mem s)
  redraw _ hs := hs

/-- Settles O52: every piece of a step keeps the form; those that write, a store and a load, write below `MEM_SIZE`. -/
theorem stepKeepsMemoryCanonical : Obligations.StepKeepsMemoryCanonical := fun _ _ hs h =>
  memoryCanonical_keptByPieces.step hs h

/-! ### Who writes memory, and where (20_memory R41, conflict C6) -/

/-- Settles O47: a byte that differs is one of the block that FX33 or FX55 wrote. -/
theorem onlyTwoInstructionsWriteMemory : Obligations.OnlyTwoInstructionsWriteMemory := by
  intro i s t a h hne
  have hp := exec_params h
  obtain hm | ⟨bs, ⟨x, hi⟩, hfit, hm⟩ := exec_mem_cases h
  · exact absurd (by rw [State.readByte, State.readByte, hp, hm]) hne
  · have hin : ¬ (a < s.I.toNat ∨ s.I.toNat + bs.length ≤ a) := fun hout =>
      hne (by rw [State.readByte, State.readByte, hp, hm, read_writeList_outside s.params bs _ s.mem hout])
    exact ⟨x, bs.length, hi, by omega, by omega, hfit⟩

/-! ### A store and the next fetch (20_memory R55) -/

/-- FX55 on a block that fits (45_memory_transfer R132). -/
theorem exec_opFX55_of_fits {x : Reg} (h : s.I.toNat + x.toNat + 1 ≤ s.params.memSize) :
    exec (.opFX55 x) s = .next (s.writeBlock (s.regBlock x)).advance := by
  have hfit : s.blockFits (blockLen x) = true := (blockFits_succ_iff s x.toNat).mpr h
  simp [exec, execFX55, hfit]

/-- Each register of the block is read back at its place (45_memory_transfer R132). -/
theorem readByte_writeBlock_regBlock {x r : Reg} (h : r ≤ x) :
    (s.writeBlock (s.regBlock x)).readByte (s.I.toNat + r.toNat) = s.getV r := by
  have hr : r.toNat < (s.regBlock x).length := by
    rw [length_regBlock]
    exact Nat.lt_succ_of_le (BitVec.le_def.mp h)
  rw [State.writeBlock, readByte_writeBytes_inside s _ _ _ hr, getElem_regBlock]

/-- Settles O35: the store completes with `pc` at `I`, where the first two stored bytes are `V[0]` and `V[1]`. -/
theorem nextFetchSeesTheStore : Obligations.NextFetchSeesTheStore := by
  intro x s hx hI heven hfit
  refine ⟨_, exec_opFX55_of_fits hfit, ?_⟩
  have hpc : (s.writeBlock (s.regBlock x)).advance.pc = s.I := hI.symm
  have hevenI : s.I.toNat % 2 = 0 := by
    rw [hI, BitVec.toNat_add, show (2 : Word).toNat = 2 from rfl]
    omega
  have hlt : s.I.toNat + 1 < s.params.memSize := by omega
  rw [fetch_of_even_of_lt (by rwa [hpc]) (by rwa [hpc]), hpc]
  congr 2
  · exact readByte_writeBlock_regBlock (s := s) (x := x) (r := 0) (BitVec.le_def.mpr (Nat.zero_le _))
  · exact readByte_writeBlock_regBlock (s := s) (x := x) (r := 1) (BitVec.le_def.mpr hx)

/-! ### Fatal fetches (20_memory R44, 60_exceptions R169) -/

/-- An odd `pc` fails the fetch, wherever it points. -/
theorem fetch_of_odd (hodd : s.pc.toNat % 2 = 1) : fetch s = .fail .fetchMisaligned := by
  rw [fetch, pc_lsb_eq, if_pos (decide_eq_true hodd)]

/-- An even `pc` whose word does not end in memory fails the fetch. -/
theorem fetch_of_even_of_le (heven : s.pc.toNat % 2 = 0) (hle : s.params.memSize ≤ s.pc.toNat + 1) :
    fetch s = .fail .fetchOutOfBounds := by
  have hlsb : ¬ s.pc.getLsbD 0 = true := by
    rw [pc_lsb_eq, heven]
    decide
  rw [fetch, if_neg hlsb, if_pos hle]

/-- A failed fetch is the whole cycle: fault entry with no word recorded (60_exceptions R170, R173). -/
theorem step_of_fetch_fail {c : Condition} (hc : s.cycles) (hq : quitSeen s = false) (hf : fetch s = .fail c) :
    step s = .next (raise c 0 s).redraw := by
  rw [step_of_cycles hc]
  simp [cycle, hq, hf]

/-- Settles O8: each of the two ways the fetch fails is fault entry. -/
theorem fetchChecksFault : Obligations.FetchChecksFault := fun s hc hq =>
  ⟨fun hodd => ⟨_, faultedFrom_raise _ 0 s, step_of_fetch_fail hc hq (fetch_of_odd hodd)⟩,
   fun heven hle => ⟨_, faultedFrom_raise _ 0 s, step_of_fetch_fail hc hq (fetch_of_even_of_le heven hle)⟩⟩

/-! ### Fatal blocks (20_memory R50, 60_exceptions R171) -/

/-- A block of at least one byte that ends past memory does not fit. -/
theorem blockFits_eq_false {len : Nat} (hlen : len ≠ 0) (h : s.params.memSize < s.I.toNat + len) :
    s.blockFits len = false :=
  Bool.eq_false_iff.mpr fun hfit => by
    have := (blockFits_iff s len).mp hfit
    omega

/-- FX33 on a block that does not fit is fault entry alone. -/
theorem exec_opFX33_of_not_fits {x : Reg} (h : s.blockFits 3 = false) :
    exec (.opFX33 x) s = .next (raise .memoryBounds (encode (.opFX33 x)) s) := by
  simp [exec, execFX33, h]

/-- DXYN on a block that does not fit is fault entry alone. -/
theorem exec_opDXYN_of_not_fits {x y : Reg} {n : Nibble} (h : s.blockFits n.toNat = false) :
    exec (.opDXYN x y n) s = .next (raise .memoryBounds (encode (.opDXYN x y n)) s) := by
  simp [exec, execDXYN, h]

/-- Settles O33: both blocks have a byte, so neither fits, and each execute step is fault entry. -/
theorem digitsAndSpriteOutOfBoundsFault : Obligations.DigitsAndSpriteOutOfBoundsFault := fun x y n s =>
  ⟨fun h => ⟨_, exec_opFX33_of_not_fits (blockFits_eq_false (by decide) h), faultedFrom_raise _ _ s⟩,
   fun hn h => ⟨_, exec_opDXYN_of_not_fits (blockFits_eq_false (fun h0 => hn (BitVec.eq_of_toNat_eq h0)) h),
    faultedFrom_raise _ _ s⟩⟩

end Sys2Proof.Machine
end

section
/-! Proofs of the encoding family: decode and encode undo each other, and the words that no instruction has
(spec/30_encoding.md R61 to R68). -/

namespace Sys2Proof

variable {strict : Bool} {w : Word} {i j : Instr}

/-! ### A word is put together from its class and its fields (R61, R62) -/

theorem formatA_fields {c : BitVec 4} (hc : (opClass w).toNat = c.toNat) : formatA c (fieldNNN w) = w := by
  apply BitVec.eq_of_toNat_eq
  rw [toNat_formatA, ← hc, toNat_opClass, toNat_fieldNNN]
  omega

theorem formatXI_fields {c : BitVec 4} {nn : Byte} (hc : (opClass w).toNat = c.toNat)
    (hnn : (fieldNN w).toNat = nn.toNat) : formatXI c (fieldX w) nn = w := by
  apply BitVec.eq_of_toNat_eq
  rw [toNat_formatXI, ← hc, ← hnn, toNat_opClass, toNat_fieldX, toNat_fieldNN]
  omega

theorem formatXYN_fields {c : BitVec 4} {n : Nibble} (hc : (opClass w).toNat = c.toNat)
    (hn : (fieldN w).toNat = n.toNat) : formatXYN c (fieldX w) (fieldY w) n = w := by
  apply BitVec.eq_of_toNat_eq
  rw [toNat_formatXYN, ← hc, ← hn, toNat_opClass, toNat_fieldX, toNat_fieldY, toNat_fieldN]
  omega

/-! ### The classes with a decoder of their own (R64) -/

theorem decode_class0 (hc : opClass w = 0x0) : decode strict w = decode0 w := by simp [decode, hc]
theorem decode_class8 (hc : opClass w = 0x8) : decode strict w = decode8 w := by simp [decode, hc]
theorem decode_classE (hc : opClass w = 0xE) : decode strict w = decodeE w := by simp [decode, hc]
theorem decode_classF (hc : opClass w = 0xF) : decode strict w = decodeF w := by simp [decode, hc]

/-- `STRICT_LOW_NIBBLE` is all that can keep a word of class 5 or 9 from its instruction (R68). -/
theorem decodeLoose_eq_instr_iff :
    decodeLoose strict w j = .instr i ↔ j = i ∧ (strict = true → fieldN w = 0) := by
  cases strict with
  | false => simp [decodeLoose]
  | true => by_cases hn : fieldN w = 0#4 <;> simp [decodeLoose, hn]

/-! ### Decoding an encoded instruction -/

/-- Settles O57, by the kinds of instruction: the fixed words, the classes with an unexamined nibble, the classes with a
sub-opcode, and the classes that decode on the class alone. -/
theorem decodeOfEncodeIsTheInstruction : Obligations.DecodeOfEncodeIsTheInstruction := by
  intro strict i hwf
  cases i with
  | op00E0 | op00EE => rfl
  | op5XY0 x y n | op9XY0 x y n =>
    have hloose : strict = true → n = 0 := by simpa [Instr.wf] using hwf
    simpa [decode, encode, decodeLoose_eq_instr_iff] using hloose
  | op8XY0 | op8XY1 | op8XY2 | op8XY3 | op8XY4 | op8XY5 | op8XY6 | op8XY7 | op8XYE =>
    rw [encode, decode_class8 (opClass_formatXYN ..)]
    simp [decode8]
  | opEX9E | opEXA1 =>
    rw [encode, decode_classE (opClass_formatXI ..)]
    simp [decodeE]
  | opFX07 | opFX0A | opFX15 | opFX18 | opFX1E | opFX29 | opFX33 | opFX55 | opFX65 =>
    rw [encode, decode_classF (opClass_formatXI ..)]
    simp [decodeF]
  | op1NNN | op2NNN | op3XNN | op4XNN | op6XNN | op7XNN | opANNN | opBNNN | opCXNN | opDXYN =>
    simp [decode, encode]

/-! ### Encoding a decoded word -/

theorem encode_of_decode0 (h : decode0 w = .instr i) : encode i = w ∧ i.wf = true := by
  unfold decode0 at h
  split at h
  case isTrue hw => cases h; exact ⟨hw.symm, rfl⟩
  case isFalse =>
    split at h
    case isTrue hw => cases h; exact ⟨hw.symm, rfl⟩
    case isFalse => cases h

theorem encode_of_decode8 (hc : (opClass w).toNat = 0x8) (h : decode8 w = .instr i) :
    encode i = w ∧ i.wf = true := by
  unfold decode8 at h
  split at h <;> cases h <;> exact ⟨formatXYN_fields hc ‹_›, rfl⟩

theorem encode_of_decodeE (hc : (opClass w).toNat = 0xE) (h : decodeE w = .instr i) :
    encode i = w ∧ i.wf = true := by
  unfold decodeE at h
  split at h <;> cases h <;> exact ⟨formatXI_fields hc ‹_›, rfl⟩

theorem encode_of_decodeF (hc : (opClass w).toNat = 0xF) (h : decodeF w = .instr i) :
    encode i = w ∧ i.wf = true := by
  unfold decodeF at h
  split at h <;> cases h <;> exact ⟨formatXI_fields hc ‹_›, rfl⟩

/-- Settles O58, by the class of the word: a class with a decoder of its own has its lemma above, and in the others the
word is its own class and fields put together. -/
theorem encodeOfDecodeIsTheWord : Obligations.EncodeOfDecodeIsTheWord := by
  intro strict w i h
  unfold decode at h
  split at h
  case h_1 => exact (encode_of_decode0 h).imp_right fun hwf _ => hwf
  case h_9 hc => exact (encode_of_decode8 hc h).imp_right fun hwf _ => hwf
  case h_15 hc => exact (encode_of_decodeE hc h).imp_right fun hwf _ => hwf
  case h_16 =>
    have hc : (opClass w).toNat = 0xF := by simp only [imp_false] at *; omega
    exact (encode_of_decodeF hc h).imp_right fun hwf _ => hwf
  case h_6 hc | h_10 hc =>
    obtain ⟨rfl, hn⟩ := decodeLoose_eq_instr_iff.mp h
    exact ⟨formatXYN_fields hc rfl, by simpa [Instr.wf] using hn⟩
  case h_2 hc | h_3 hc | h_11 hc | h_12 hc =>
    cases h
    exact ⟨formatA_fields hc, fun _ => rfl⟩
  case h_4 hc | h_5 hc | h_7 hc | h_8 hc | h_13 hc =>
    cases h
    exact ⟨formatXI_fields hc rfl, fun _ => rfl⟩
  case h_14 hc =>
    cases h
    exact ⟨formatXYN_fields hc rfl, fun _ => rfl⟩

/-! ### The unimplemented words (R65, R67) -/

theorem decode0_eq_unimplemented_iff : decode0 w = .unimplementedOpcode w ↔ w ≠ 0x00E0 ∧ w ≠ 0x00EE := by
  unfold decode0
  split
  case isTrue hw => simp [hw]
  case isFalse hw => split <;> simp_all

theorem decode8_eq_unimplemented_iff :
    decode8 w = .unimplementedOpcode w ↔ fieldN w ∈ [0x8, 0x9, 0xA, 0xB, 0xC, 0xD, 0xF] := by
  unfold decode8
  simp only [List.mem_cons, List.not_mem_nil, ← BitVec.toNat_inj]
  split
  case h_10 => simp only [imp_false] at *; simp; omega
  all_goals simp [*]

theorem decodeE_eq_unimplemented_iff : decodeE w = .unimplementedOpcode w ↔ fieldNN w ∉ [0x9E, 0xA1] := by
  unfold decodeE
  simp only [List.mem_cons, List.not_mem_nil, ← BitVec.toNat_inj]
  split <;> simp_all

theorem decodeF_eq_unimplemented_iff : decodeF w = .unimplementedOpcode w ↔
    fieldNN w ∉ [0x07, 0x0A, 0x15, 0x18, 0x1E, 0x29, 0x33, 0x55, 0x65] := by
  unfold decodeF
  simp only [List.mem_cons, List.not_mem_nil, ← BitVec.toNat_inj]
  split <;> simp_all

/-- Every word of a class without a decoder of its own is an instruction, classes 5 and 9 by the default of R68. -/
theorem exists_decode_eq_instr (hc : opClass w ∉ [0x0, 0x8, 0xE, 0xF]) : ∃ i, decode false w = .instr i := by
  simp only [List.mem_cons, List.not_mem_nil, ← BitVec.toNat_inj] at hc
  unfold decode
  split
  case h_1 | h_9 | h_15 => simp_all
  case h_16 => simp only [imp_false] at *; simp at hc; omega
  all_goals exact ⟨_, rfl⟩

/-- Settles O59, by the class of the word: the table has a row for each of the four classes with a decoder of their own,
and every word of the others decodes. -/
theorem unimplementedWordsAreTheTable : Obligations.UnimplementedWordsAreTheTable := by
  intro w
  by_cases hc : opClass w ∈ [0x0, 0x8, 0xE, 0xF]
  · simp only [List.mem_cons, List.not_mem_nil, or_false] at hc
    obtain h0 | h8 | hE | hF := hc
    · rw [decode_class0 h0, decode0_eq_unimplemented_iff]; simp [h0]
    · rw [decode_class8 h8, decode8_eq_unimplemented_iff]; simp [h8]
    · rw [decode_classE hE, decodeE_eq_unimplemented_iff]; simp [hE]
    · rw [decode_classF hF, decodeF_eq_unimplemented_iff]; simp [hF]
  · obtain ⟨i, hi⟩ := exists_decode_eq_instr hc
    simp only [List.mem_cons, List.not_mem_nil, or_false, not_or] at hc
    obtain ⟨h0, h8, hE, hF⟩ := hc
    simp only [hi, h0, h8, hE, hF, reduceCtorEq, false_and, or_self]

/-! ### Words written out by hand (95_test_vectors 2.1) -/

/-- Settles O60: the decoder is evaluated on the eight words. -/
theorem handWrittenWordsDecode : Obligations.HandWrittenWordsDecode := by
  unfold Obligations.HandWrittenWordsDecode
  decide

end Sys2Proof
end

section
/-! Proofs of the flow family: jumps, calls and returns, below and at the bounds of the stack
(spec/40_flow.md R80 to R83). -/

namespace Sys2Proof.Machine

variable {s u : State} {w : Word}

/-! ### Jump targets as numbers (30_encoding R63) -/

@[simp] theorem toNat_zextAddr (nnn : Addr) : (zextAddr nnn).toNat = nnn.toNat :=
  BitVec.toNat_setWidth_of_le (by decide)

@[simp] theorem toNat_zextByte (b : Byte) : (zextByte b).toNat = b.toNat :=
  BitVec.toNat_setWidth_of_le (by decide)

/-- The target of BNNN is the sum itself: a 12-bit and an 8-bit number do not carry out of 16 bits. -/
theorem toNat_zextAddr_add_zextByte (nnn : Addr) (b : Byte) :
    (zextAddr nnn + zextByte b).toNat = nnn.toNat + b.toNat := by
  have hn := nnn.isLt
  have hb := b.isLt
  rw [BitVec.toNat_add, toNat_zextAddr, toNat_zextByte, Nat.mod_eq_of_lt (by omega)]

/-- Settles O12: the execute step is one jump. -/
theorem jumpSetsPc : Obligations.JumpSetsPc := fun nnn s =>
  ⟨s.jump (zextAddr nnn), rfl, toNat_zextAddr nnn, only_jump s _⟩

/-- Settles O13: the execute step is one jump, and its target does not wrap. -/
theorem jumpWithOffsetAddsV0 : Obligations.JumpWithOffsetAddsV0 := fun nnn s =>
  ⟨s.jump (zextAddr nnn + zextByte (s.getV 0)), rfl, toNat_zextAddr_add_zextByte nnn _, only_jump s _⟩

/-! ### When the stack answers (10_state R19), and what 2NNN and 00EE do with the answer -/

theorem exists_push_of_lt (v : Word) (h : s.SP < s.params.stackLimit) : ∃ u, s.push v = some u :=
  Option.isSome_iff_exists.mp ((push_isSome_iff v).mpr h)

theorem push_eq_none_iff (v : Word) : s.push v = none ↔ s.params.stackLimit ≤ s.SP := by
  rw [← Option.not_isSome_iff_eq_none, push_isSome_iff, not_lt]

theorem exists_pop_of_pos (h : 0 < s.SP.val) : ∃ w u, s.pop = some (w, u) := by
  obtain ⟨⟨w, u⟩, hpop⟩ := Option.isSome_iff_exists.mp (pop_isSome_iff.mpr h)
  exact ⟨w, u, hpop⟩

theorem pop_eq_none_iff : s.pop = none ↔ s.SP = 0 := by
  rw [← Option.not_isSome_iff_eq_none, pop_isSome_iff, Nat.pos_iff_ne_zero, not_not, Fin.val_eq_zero_iff]

theorem exec_op2NNN_of_push (nnn : Addr) (h : s.push (s.pc + 2) = some u) :
    exec (.op2NNN nnn) s = .next (u.jump (zextAddr nnn)) := by
  simp only [exec, exec2NNN, h]

theorem exec_op2NNN_of_push_none (nnn : Addr) (h : s.push (s.pc + 2) = none) :
    exec (.op2NNN nnn) s = .next (raise .stackOverflow (encode (.op2NNN nnn)) s) := by
  simp only [exec, exec2NNN, h]

theorem exec_op00EE_of_pop (h : s.pop = some (w, u)) : exec .op00EE s = .next (u.jump w) := by
  simp only [exec, exec00EE, h]

theorem exec_op00EE_of_pop_none (h : s.pop = none) :
    exec .op00EE s = .next (raise .stackUnderflow (encode .op00EE) s) := by
  simp only [exec, exec00EE, h]

/-! ### Calls and returns (R80, R82) -/

/-- Settles O14: below the limit the push answers, and the jump after it touches `pc` alone. -/
theorem callPushesTheReturnAddress : Obligations.CallPushesTheReturnAddress := by
  intro nnn s hlt
  obtain ⟨u, hpush⟩ := exists_push_of_lt (s.pc + 2) hlt
  obtain ⟨k, hk, -, hslot, hSP, honly⟩ := push_eq_some hpush
  exact ⟨k, u.jump (zextAddr nnn), hk, exec_op2NNN_of_push nnn hpush, toNat_zextAddr nnn, hslot, hSP,
    (honly.mono (List.subset_cons_self _ _)).then (only_jump u _) (by simp)⟩

/-- Settles O15: on a stack with an entry the pop answers, and the jump after it touches `pc` alone. -/
theorem returnPopsIntoPc : Obligations.ReturnPopsIntoPc := by
  intro s hpos
  obtain ⟨w, u, hpop⟩ := exists_pop_of_pos hpos
  obtain ⟨k, hk, hw, hSP, honly⟩ := pop_eq_some hpop
  exact ⟨k, u.jump w, hk, exec_op00EE_of_pop hpop, hw, hSP,
    (honly.mono (List.subset_cons_self _ _)).then (only_jump u _) (by simp)⟩

/-- Settles O16: at its bound the stack does not answer, and the execute step is fault entry. -/
theorem stackBoundsAreFatal : Obligations.StackBoundsAreFatal := fun nnn s =>
  ⟨fun hle => ⟨_, exec_op2NNN_of_push_none nnn ((push_eq_none_iff _).mpr hle), faultedFrom_raise _ _ s⟩,
   fun hzero => ⟨_, exec_op00EE_of_pop_none (pop_eq_none_iff.mpr hzero), faultedFrom_raise _ _ s⟩⟩

/-- Settles O17: the call leaves the depth above 0, and the slot the return reads is the one the call wrote. -/
theorem callThenReturnComesBack : Obligations.CallThenReturnComesBack := by
  intro nnn s hlt
  obtain ⟨k, u, hk, hcall, -, hslot, hdeeper, -⟩ := callPushesTheReturnAddress nnn s hlt
  obtain ⟨k', t, hk', hret, hpc, hSP, -⟩ := returnPopsIntoPc u (by omega)
  obtain rfl : k' = k := Fin.ext (by omega)
  exact ⟨u, t, hcall, hret, Fin.ext (hSP.trans hk), hpc.trans hslot⟩

end Sys2Proof.Machine
end

section
/-! Proofs of the skip family: the conditional skips on registers (spec/41_skip.md R90 to R93). -/

namespace Sys2Proof.Machine

variable {s : State} {i : Instr} {c : Bool} {P : Prop} [Decidable P]

@[simp] theorem skipIf_pc (s : State) (c : Bool) : (s.skipIf c).pc = if c then s.pc + 4 else s.pc + 2 := by
  unfold State.skipIf
  split <;> rfl

/-- All that an execute step does when it is one conditional skip: `pc` moves by 4 exactly when the condition holds, by 2
otherwise, and nothing else changes (00_scope R7). -/
theorem exists_next_of_exec_skipIf (hexec : exec i s = .next (s.skipIf c)) (hc : c = true ↔ P) :
    ∃ t, exec i s = .next t ∧ t.pc = (if P then s.pc + 4 else s.pc + 2) ∧ Only [.pc] s t :=
  ⟨s.skipIf c, hexec, (skipIf_pc s c).trans (if_congr hc rfl rfl), only_skipIf s c⟩

/-- Settles O18: each execute step is one skip, on the test of `V[x]` against the immediate. -/
theorem skipsOnAnImmediate : Obligations.SkipsOnAnImmediate := fun _ _ _ =>
  ⟨exists_next_of_exec_skipIf rfl beq_iff_eq, exists_next_of_exec_skipIf rfl bne_iff_ne⟩

/-- Settles O19: each execute step is one skip, on the test of `V[x]` against `V[y]`; the low nibble is not looked at. -/
theorem skipsOnTwoRegisters : Obligations.SkipsOnTwoRegisters := fun _ _ _ _ =>
  ⟨exists_next_of_exec_skipIf rfl beq_iff_eq, exists_next_of_exec_skipIf rfl bne_iff_ne⟩

end Sys2Proof.Machine
end

section
/-! Proofs of the immediate family: a register loaded with an immediate or increased by one
(spec/42_immediate.md R100, R101). -/

namespace Sys2Proof.Machine

variable {s : State} {i : Instr} {x : Reg} {b : Byte}

/-- All that an execute step does when it is one register write and `next`: `V[x]` holds the value, `pc` moves by 2, and
nothing else changes; `VF` is a register like the others (10_state R12). -/
theorem exists_next_of_exec_setV_advance (hexec : exec i s = .next (s.setV x b).advance) :
    ∃ t, exec i s = .next t ∧ t.getV x = b ∧ t.pc = s.pc + 2 ∧ Only [.pc, .reg x] s t :=
  ⟨(s.setV x b).advance, hexec, getV_setV_self s x b, rfl, only_setV_advance s x b⟩

/-- Settles O20: the execute step is one register write, of the immediate. -/
theorem loadImmediateWritesVx : Obligations.LoadImmediateWritesVx := fun _ _ _ =>
  exists_next_of_exec_setV_advance rfl

/-- Settles O21: the execute step is one register write, of the sum of two bytes, which is taken modulo 256. -/
theorem addImmediateSetsNoFlag : Obligations.AddImmediateSetsNoFlag := by
  intro x nn s
  obtain ⟨t, hexec, hx, hpc, honly⟩ := exists_next_of_exec_setV_advance (i := .op7XNN x nn) (s := s) rfl
  refine ⟨t, hexec, ?_, hpc, honly⟩
  calc (t.getV x).toNat = (s.getV x + nn).toNat := congrArg BitVec.toNat hx
    _ = ((s.getV x).toNat + nn.toNat) % 256 := BitVec.toNat_add ..

end Sys2Proof.Machine
end

section
/-! Proofs of the ALU family: copy and logic, the arithmetic with carry and borrow, the shifts
(spec/43_alu.md R105 to R114). -/

namespace Sys2Proof.Machine

variable {s : State} {i : Instr} {x : Reg} {b f : Byte} {c : Bool} {n m : Nat}

/-! ### Results and flags as numbers -/

/-- The difference of two bytes as 43_alu R110 and R113 write it. -/
theorem toNat_byte_sub (a b : Byte) : (a - b).toNat = (a.toNat + 256 - b.toNat) % 256 := by
  have hb := b.isLt
  rw [BitVec.toNat_sub]
  omega

theorem toNat_ushiftRight_one (b : Byte) : (b >>> 1).toNat = b.toNat / 2 := by
  rw [BitVec.toNat_ushiftRight, Nat.shiftRight_eq_div_pow, pow_one]

theorem toNat_shiftLeft_one (b : Byte) : (b <<< 1).toNat = b.toNat * 2 % 256 := by
  rw [BitVec.toNat_shiftLeft, Nat.shiftLeft_eq, pow_one]

theorem flagByte_carryOut (a b : Byte) : flagByte (carryOut a b) = if a.toNat + b.toNat > 255 then 1 else 0 := by
  simp only [flagByte, carryOut, decide_eq_true_iff]

theorem flagByte_noBorrow (a b : Byte) : flagByte (noBorrow a b) = if a.toNat ≥ b.toNat then 1 else 0 := by
  simp only [flagByte, noBorrow, decide_eq_true_iff]

theorem toNat_flagByte (c : Bool) : (flagByte c).toNat = c.toNat := by cases c <;> rfl

theorem toNat_flagByte_shiftedOutRight (b : Byte) : (flagByte (shiftedOutRight b)).toNat = b.toNat % 2 := by
  rw [toNat_flagByte, shiftedOutRight, BitVec.getLsbD, Nat.toNat_testBit, pow_zero, Nat.div_one]

/-- Bit 7 is the top bit of a byte, so it is the whole quotient by 128. -/
theorem toNat_flagByte_shiftedOutLeft (b : Byte) : (flagByte (shiftedOutLeft b)).toNat = b.toNat / 128 := by
  have hb := b.isLt
  rw [toNat_flagByte, shiftedOutLeft, BitVec.getLsbD, Nat.toNat_testBit]
  omega

/-! ### An execute step that is one result and one flag -/

/-- All that an execute step does when it is a result and then a flag: `V[x]` holds the result unless it is `VF`, which
holds the flag, written last; `pc` moves by 2, and nothing else changes (00_scope R8). -/
theorem exists_next_of_exec_resultThenFlag (hexec : exec i s = .next (s.resultThenFlag x b c))
    (hb : b.toNat = n) (hf : flagByte c = f) :
    ∃ t, exec i s = .next t ∧ (x ≠ VF → (t.getV x).toNat = n) ∧ t.getV VF = f ∧ t.pc = s.pc + 2 ∧
      Only [.pc, .reg x, .reg VF] s t := by
  refine ⟨s.resultThenFlag x b c, hexec, fun hx => ?_, ?_, rfl, only_resultThenFlag s x b c⟩
  · rw [getV_resultThenFlag, if_neg hx, if_pos rfl, hb]
  · rw [getV_resultThenFlag, if_pos rfl, hf]

/-- The same, with the flag as a number: a shift's flag is a bit of its operand. -/
theorem exists_next_of_exec_resultThenBit (hexec : exec i s = .next (s.resultThenFlag x b c))
    (hb : b.toNat = n) (hc : (flagByte c).toNat = m) :
    ∃ t, exec i s = .next t ∧ (x ≠ VF → (t.getV x).toNat = n) ∧ (t.getV VF).toNat = m ∧ t.pc = s.pc + 2 ∧
      Only [.pc, .reg x, .reg VF] s t := by
  obtain ⟨t, hexec, hx, hVF, hpc, honly⟩ := exists_next_of_exec_resultThenFlag hexec hb rfl
  exact ⟨t, hexec, hx, (congrArg BitVec.toNat hVF).trans hc, hpc, honly⟩

/-! ### The instructions -/

/-- Settles O22: each of the four execute steps is one register write, of a value of the old operands. -/
theorem copyAndLogicSetNoFlag : Obligations.CopyAndLogicSetNoFlag := by
  intro x y s
  simp only [List.forall_mem_cons]
  exact ⟨exists_next_of_exec_setV_advance rfl, exists_next_of_exec_setV_advance rfl,
    exists_next_of_exec_setV_advance rfl, exists_next_of_exec_setV_advance rfl, List.forall_mem_nil _⟩

/-- Settles O23: the execute step is the sum of two bytes and its carry. -/
theorem addSetsTheCarry : Obligations.AddSetsTheCarry := fun _ _ _ =>
  exists_next_of_exec_resultThenFlag rfl (BitVec.toNat_add ..) (flagByte_carryOut ..)

/-- Settles O24: the execute step is the difference of two bytes and its missing borrow. -/
theorem subtractSetsNoBorrow : Obligations.SubtractSetsNoBorrow := fun _ _ _ =>
  exists_next_of_exec_resultThenFlag rfl (toNat_byte_sub ..) (flagByte_noBorrow ..)

/-- Settles O25: the execute step is that of 8XY5 with the operands of the difference exchanged. -/
theorem reverseSubtractSetsNoBorrow : Obligations.ReverseSubtractSetsNoBorrow := fun _ _ _ =>
  exists_next_of_exec_resultThenFlag rfl (toNat_byte_sub ..) (flagByte_noBorrow ..)

/-- Settles O26: each execute step is a shift of `V[y]` by one and the bit that leaves it. -/
theorem shiftsTakeVy : Obligations.ShiftsTakeVy := fun _ _ _ =>
  ⟨exists_next_of_exec_resultThenBit rfl (toNat_ushiftRight_one _) (toNat_flagByte_shiftedOutRight _),
   exists_next_of_exec_resultThenBit rfl (toNat_shiftLeft_one _) (toNat_flagByte_shiftedOutLeft _)⟩

end Sys2Proof.Machine
end

section
/-! Proofs of the index family: the address register loaded, increased, and pointed at a glyph
(spec/44_index.md R120, R122, R124). -/

namespace Sys2Proof.Machine

variable {s : State} {i : Instr} {w : Word} {n : Nat}

/-! ### Addresses and the overflow flag as numbers -/

/-- Ten times a byte is its product as numbers: 2550 at most, so it does not wrap (44_index R124). -/
theorem toNat_zextByte_mul_ten (b : Byte) : (zextByte b * 10).toNat = b.toNat * 10 := by
  have hb := b.isLt
  rw [BitVec.toNat_mul, toNat_zextByte, show (10 : Word).toNat = 10 from rfl]
  omega

theorem le_memSize_of_wf {p : Params} (hw : p.wf = true) : 4096 ≤ p.memSize := by
  simp only [Params.wf, Bool.and_eq_true, decide_eq_true_iff] at hw
  obtain ⟨⟨hsize, -⟩, -⟩ := hw
  exact hsize

/-- The flag of FX1E as 44_index R122 restates it, `s >= MEM_SIZE` for `s > MEM_SIZE - 1`: a legal memory is not empty. -/
theorem flagByte_addressOverflow {p : Params} (hw : p.wf = true) (n : Nat) :
    flagByte (addressOverflow p n) = if p.memSize ≤ n then 1 else 0 := by
  have hsize := le_memSize_of_wf hw
  refine if_congr ?_ rfl rfl
  rw [addressOverflow, decide_eq_true_iff]
  omega

/-! ### The instructions -/

/-- All that an execute step does when it is one write of `I` and `next`: `I` holds the address, unchecked, `pc` moves
by 2, and nothing else changes (10_state R17). -/
theorem exists_next_of_exec_setI_advance (hexec : exec i s = .next (s.setI w).advance) (hw : w.toNat = n) :
    ∃ t, exec i s = .next t ∧ t.I.toNat = n ∧ t.pc = s.pc + 2 ∧ Only [.pc, .I] s t :=
  ⟨(s.setI w).advance, hexec, hw, rfl, ((only_setI s w).mono (by simp)).then (only_advance _) (by simp)⟩

/-- Settles O27: the execute step is one write of `I`, of the zero-extended address. -/
theorem loadIndexWritesI : Obligations.LoadIndexWritesI := fun nnn _ =>
  exists_next_of_exec_setI_advance rfl (toNat_zextAddr nnn)

/-- Settles O28: the sum is taken from the old registers, and the flag, written after it, tests the sum before it wraps. -/
theorem addToIndexFlagsOverflow : Obligations.AddToIndexFlagsOverflow := by
  intro x s hw
  refine ⟨((s.setI (BitVec.ofNat 16 (indexSum s x))).setFlag (addressOverflow s.params (indexSum s x))).advance,
    rfl, BitVec.toNat_ofNat .., ?_, rfl, exec_only (i := .opFX1E x) rfl⟩
  calc
    _ = flagByte (addressOverflow s.params (indexSum s x)) := getV_setV_self _ VF _
    _ = if s.params.memSize ≤ indexSum s x then 1 else 0 := flagByte_addressOverflow hw _

/-- Settles O29: the execute step is one write of `I`, of a product that does not wrap. -/
theorem fontAddressIsTenTimesVx : Obligations.FontAddressIsTenTimesVx := fun x s =>
  exists_next_of_exec_setI_advance rfl (toNat_zextByte_mul_ten (s.getV x))

end Sys2Proof.Machine
end

section
/-! Proofs of the memory transfer family: the decimal digits, the register blocks stored and loaded, and a block that runs
past the end (spec/45_memory_transfer.md R130, R132, R134; 20_memory.md R50). -/

namespace Sys2Proof.Machine

variable {s : State} {x : Reg} {bs : List Byte} {k d : Nat}

/-- A block store followed by `next` changes the block and `pc` alone. -/
theorem only_writeBlock_advance (s : State) (bs : List Byte) :
    Only (.pc :: blockParts s bs.length) s (s.writeBlock bs).advance :=
  ((only_writeBlock s bs).mono (List.subset_cons_self _ _)).then (only_advance _) (by simp)

/-! ### Decimal digits (R130) -/

/-- A stored byte is read back as the number it was made from, which must fit in it. -/
theorem toNat_readByte_writeBlock (h : bs[k]? = some (BitVec.ofNat 8 d)) (hd : d < 256) :
    ((s.writeBlock bs).readByte (s.I.toNat + k)).toNat = d := by
  obtain ⟨hk, hget⟩ := List.getElem?_eq_some_iff.mp h
  rw [State.writeBlock, readByte_writeBytes_inside s _ bs k hk, hget, BitVec.toNat_ofNat, Nat.mod_eq_of_lt hd]

/-- FX33 on a block that fits. -/
theorem exec_opFX33_of_fits (h : s.I.toNat + 3 ≤ s.params.memSize) :
    exec (.opFX33 x) s = .next (s.writeBlock (bcdDigits (s.getV x))).advance := by
  have hfit : s.blockFits 3 = true := (blockFits_succ_iff s 2).mpr h
  simp [exec, execFX33, hfit]

/-- Settles O30: the execute step stores the three digits, each of which fits in a byte. -/
theorem storeDecimalDigits : Obligations.StoreDecimalDigits := by
  intro x s hfit
  have hV := (s.getV x).isLt
  refine ⟨(s.writeBlock (bcdDigits (s.getV x))).advance, exec_opFX33_of_fits hfit, ?_, ?_, ?_, rfl,
    only_writeBlock_advance s (bcdDigits (s.getV x))⟩
  · exact toNat_readByte_writeBlock (s := s) (k := 0) rfl (by omega)
  · exact toNat_readByte_writeBlock (s := s) (k := 1) rfl (by omega)
  · exact toNat_readByte_writeBlock (s := s) (k := 2) rfl (by omega)

/-! ### Register blocks (R132, R134) -/

/-- A register block that ends past memory does not fit (20_memory R50). -/
theorem blockFits_blockLen_eq_false (h : s.params.memSize < s.I.toNat + x.toNat + 1) :
    s.blockFits (blockLen x) = false :=
  blockFits_eq_false (Nat.succ_ne_zero _) h

/-- FX55 on a block that does not fit is fault entry alone. -/
theorem exec_opFX55_of_not_fits (h : s.blockFits (blockLen x) = false) :
    exec (.opFX55 x) s = .next (raise .memoryBounds (encode (.opFX55 x)) s) := by
  simp [exec, execFX55, h]

/-- FX65 on a block that fits. -/
theorem exec_opFX65_of_fits (h : s.I.toNat + x.toNat + 1 ≤ s.params.memSize) :
    exec (.opFX65 x) s = .next (s.loadRegs x).advance := by
  have hfit : s.blockFits (blockLen x) = true := (blockFits_succ_iff s x.toNat).mpr h
  simp [exec, execFX65, hfit]

/-- FX65 on a block that does not fit is fault entry alone. -/
theorem exec_opFX65_of_not_fits (h : s.blockFits (blockLen x) = false) :
    exec (.opFX65 x) s = .next (raise .memoryBounds (encode (.opFX65 x)) s) := by
  simp [exec, execFX65, h]

/-- Settles O31: inside memory the execute step stores the register block, past the end it is fault entry. -/
theorem storeRegistersWritesTheBlock : Obligations.StoreRegistersWritesTheBlock := fun x s =>
  ⟨fun hfit => ⟨(s.writeBlock (s.regBlock x)).advance, exec_opFX55_of_fits hfit,
    fun _ hr => readByte_writeBlock_regBlock (s := s) hr, rfl, length_regBlock s x ▸ only_writeBlock_advance s _⟩,
   fun hpast => ⟨_, exec_opFX55_of_not_fits (blockFits_blockLen_eq_false hpast), faultedFrom_raise _ _ s⟩⟩

/-- Settles O32: inside memory the execute step loads the registers, past the end it is fault entry. -/
theorem loadRegistersReadsTheBlock : Obligations.LoadRegistersReadsTheBlock := fun x s =>
  ⟨fun hfit => ⟨(s.loadRegs x).advance, exec_opFX65_of_fits hfit,
    fun r hr => (getV_loadRegs s x r).trans (if_pos hr), rfl,
    ((only_loadRegs s x).mono (List.subset_cons_self _ _)).then (only_advance _) (by simp)⟩,
   fun hpast => ⟨_, exec_opFX65_of_not_fits (blockFits_blockLen_eq_false hpast), faultedFrom_raise _ _ s⟩⟩

/-- Settles O34: the store leaves `I` and the parameters alone, so the load reads the block that the store wrote. -/
theorem storeThenLoadRestoresTheRegisters : Obligations.StoreThenLoadRestoresTheRegisters := by
  intro x s u v hfit hstore hparams hmem hI
  obtain ⟨u', hu', hstored, -, honly⟩ := (storeRegistersWritesTheBlock x s).1 hfit
  obtain rfl := Host.Outcome.next.inj (hstore.symm.trans hu')
  have hvI : v.I = s.I := hI.trans (honly.same (p := .I) (by simp [blockParts]))
  have hvparams : v.params = s.params := hparams.trans (exec_params hstore)
  have hbyte (a : Nat) : v.readByte a = u.readByte a := by
    rw [State.readByte, State.readByte, hparams, hmem]
  obtain ⟨t, hload, hloaded, -⟩ := (loadRegistersReadsTheBlock x v).1 (by rwa [hvI, hvparams])
  refine ⟨t, hload, fun r hr => ?_⟩
  calc t.getV r = v.readByte (v.I.toNat + r.toNat) := hloaded r hr
    _ = u.readByte (s.I.toNat + r.toNat) := by rw [hbyte, hvI]
    _ = s.getV r := hstored r hr

end Sys2Proof.Machine
end

section
/-! Proofs of the random and display family: the screen cleared, a masked random byte, and a sprite drawn, with its answer
there or still to come (spec/46_random_display.md R140, R142, R144). -/

namespace Sys2Proof.Machine

variable {s : State} {x y : Reg} {n : Nibble} {c : Bool}

/-! ### Clear and random (R140, R142) -/

/-- Settles O36: the execute step is one request and `next`. -/
theorem clearSendsOneRequest : Obligations.ClearSendsOneRequest := fun s =>
  ⟨(s.send .clear).advance, rfl, send_sent s .clear, rfl, exec_only (i := .op00E0) rfl⟩

/-- A byte masked with `nn` is at most `nn`. -/
theorem toNat_and_le_right (r nn : Byte) : (r &&& nn).toNat ≤ nn.toNat := by
  rw [BitVec.toNat_and]
  exact Nat.and_le_right

/-- Settles O37: the execute step is one request, one register write, of the masked byte, and `next`. -/
theorem randomIsMasked : Obligations.RandomIsMasked := by
  intro x nn s
  have hx : ((s.send .randomByte).setV x (s.inputs.random &&& nn)).advance.getV x = s.inputs.random &&& nn :=
    getV_setV_self _ x _
  refine ⟨_, rfl, hx, ?_, fun k hk => ?_, rfl, rfl, exec_only (i := .opCXNN x nn) rfl⟩
  · rw [hx]
    exact toNat_and_le_right _ nn
  · rw [hx, BitVec.getLsbD_and, hk, Bool.and_false]

/-! ### The request of DXYN, sent once (R144, 60_exceptions R177) -/

/-- The request carries whole coordinates and the `n` bytes at `I`, row 0 first. -/
theorem spriteRequest_eq (x y : Reg) (n : Nibble) (s : State) : spriteRequest x y n s =
    .sprite (s.getV x) (s.getV y) ((List.range n.toNat).map fun k => s.readByte (s.I.toNat + k)) :=
  congrArg (Transaction.sprite (s.getV x) (s.getV y)) (readBlock_eq_map s n.toNat)

/-- The first poll sends the request. -/
theorem spriteSent_sent_of_first (h : s.phase ≠ .drawWait) :
    (spriteSent x y n s).sent = s.sent ++
      [.sprite (s.getV x) (s.getV y) ((List.range n.toNat).map fun k => s.readByte (s.I.toNat + k))] := by
  rw [spriteSent, if_neg h, send_sent, spriteRequest_eq]

/-- A later poll does not send it again. -/
theorem spriteSent_sent_of_waiting (h : s.phase = .drawWait) : (spriteSent x y n s).sent = s.sent := by
  rw [spriteSent, if_pos h]

@[simp] theorem spriteSent_pc (x y : Reg) (n : Nibble) (s : State) : (spriteSent x y n s).pc = s.pc :=
  (only_spriteSent x y n s).same (p := .pc) (by simp)

/-! ### DXYN on a block that fits, with and without an answer -/

/-- `BlockCheck` passes as the statements write it: a sprite without rows, or one inside memory (20_memory R50). -/
theorem blockFits_rows (h : n = 0 ∨ s.I.toNat + n.toNat ≤ s.params.memSize) : s.blockFits n.toNat = true :=
  (blockFits_iff s n.toNat).mpr (h.imp_left (congrArg BitVec.toNat))

theorem exec_opDXYN_of_answer (hfit : s.blockFits n.toNat = true) (hc : s.inputs.collided = some c) :
    exec (.opDXYN x y n) s = .next (((spriteSent x y n s).setPhase .between).setFlag c).advance := by
  simp [exec, execDXYN, hfit, hc]

theorem exec_opDXYN_of_no_answer (hfit : s.blockFits n.toNat = true) (hc : s.inputs.collided = none) :
    exec (.opDXYN x y n) s = .next ((spriteSent x y n s).setPhase .drawWait) := by
  simp [exec, execDXYN, hfit, hc]

/-- Sending the request and entering or leaving the wait change the log and the phase alone. -/
theorem only_spriteSent_setPhase (x y : Reg) (n : Nibble) (s : State) (ph : Phase) :
    Only [.phase, .sent] s ((spriteSent x y n s).setPhase ph) :=
  ((only_spriteSent x y n s).mono (by simp)).then (only_setPhase _ ph) (by simp)

/-- Settles O38: the request goes out on the first poll alone, and the answer is written to `VF` last. -/
theorem drawStoresTheCollision : Obligations.DrawStoresTheCollision := by
  intro x y n s c hfit hc
  refine ⟨_, exec_opDXYN_of_answer (blockFits_rows hfit) hc, getV_setV_self _ VF _,
    congrArg (· + 2) (spriteSent_pc x y n s), rfl, spriteSent_sent_of_first, spriteSent_sent_of_waiting, ?_⟩
  exact (((only_spriteSent_setPhase x y n s .between).mono (by simp)).then (only_setFlag _ c) (by simp)).then
    (only_advance _) (by simp)

/-- Settles O39: the step is the request, on the first poll alone, and the mark of the wait. -/
theorem drawWaitsForTheAnswer : Obligations.DrawWaitsForTheAnswer := fun x y n s hfit hc =>
  ⟨_, exec_opDXYN_of_no_answer (blockFits_rows hfit) hc, rfl, spriteSent_sent_of_first, spriteSent_sent_of_waiting,
    only_spriteSent_setPhase x y n s .drawWait⟩

end Sys2Proof.Machine
end

section
/-! Proofs of the keypad and timer family: key sensing, the wait for a key and the three ways it goes on, and the timers
read and written (spec/47_keypad_timers.md R150 to R159). -/

namespace Sys2Proof.Machine

variable {s : State} {i : Instr} {x : Reg} {k : Key} {c : Bool} {w : Word}

/-! ### Key sensing (R150 to R152) -/

/-- All that an execute step does when it is one drain and one conditional skip. -/
theorem exists_next_of_exec_drain_skipIf (hexec : exec i s = .next ((s.send .drainKeys).skipIf c))
    (hpc : (if c then s.pc + 4 else s.pc + 2) = w) :
    ∃ t, exec i s = .next t ∧ t.pc = w ∧ t.sent = s.sent ++ [.drainKeys] ∧ Only [.pc, .sent] s t :=
  ⟨(s.send .drainKeys).skipIf c, hexec, (skipIf_pc _ c).trans hpc,
    (only_skipIf (s.send .drainKeys) c).same (p := .sent) (by simp),
    ((only_send s .drainKeys).mono (by simp)).then (only_skipIf _ c) (by simp)⟩

/-- Settles O40: each execute step is one drain and one skip, on the key test or on its negation. -/
theorem skipsOnADrainedKey : Obligations.SkipsOnADrainedKey := fun x s =>
  ⟨exists_next_of_exec_drain_skipIf rfl (if_congr (keyPressed_iff s x) rfl rfl),
   exists_next_of_exec_drain_skipIf rfl (by
    simp only [Bool.not_eq_true', ← Bool.not_eq_true, ite_not, keyPressed_iff])⟩

/-! ### The wait, begun once (R154) -/

/-- The first poll alone begins the wait. -/
theorem keyAsked_sent (s : State) :
    (keyAsked s).sent = if s.phase = .keyWait then s.sent else s.sent ++ [.waitKey] :=
  apply_ite State.sent ..

@[simp] theorem keyAsked_pc (s : State) : (keyAsked s).pc = s.pc := (only_keyAsked s).same (p := .pc) (by simp)
@[simp] theorem keyAsked_DT (s : State) : (keyAsked s).DT = s.DT := (only_keyAsked s).same (p := .DT) (by simp)
@[simp] theorem keyAsked_ST (s : State) : (keyAsked s).ST = s.ST := (only_keyAsked s).same (p := .ST) (by simp)

/-- Beginning the wait and marking or leaving it change the log and the phase alone. -/
theorem only_keyAsked_setPhase (s : State) (ph : Phase) : Only [.phase, .sent] s ((keyAsked s).setPhase ph) :=
  ((only_keyAsked s).mono (by simp)).then (only_setPhase _ ph) (by simp)

theorem exec_opFX0A_of_key (h : s.inputs.waitKey = .key k) :
    exec (.opFX0A x) s = .next (((keyAsked s).setPhase .between).setV x (keyByte k)).advance := by
  simp only [exec, execFX0A, h]

theorem exec_opFX0A_of_pending (h : s.inputs.waitKey = .pending) :
    exec (.opFX0A x) s = .next ((keyAsked s).setPhase .keyWait) := by
  simp only [exec, execFX0A, h]

theorem exec_opFX0A_of_quit (h : s.inputs.waitKey = .quit) :
    exec (.opFX0A x) s = .next (keyQuit x (keyAsked s)) := by
  simp only [exec, execFX0A, h]

/-- A key value is extended by zeros. -/
theorem toNat_keyByte (k : Key) : (keyByte k).toNat = k.toNat := BitVec.toNat_setWidth_of_le (by decide)

/-- Settles O41: the step leaves the wait, writes one register, with the key, and goes on to the next instruction. -/
theorem waitKeyStoresTheKey : Obligations.WaitKeyStoresTheKey := by
  intro x s k hk
  refine ⟨_, exec_opFX0A_of_key hk, ?_, congrArg (· + 2) (keyAsked_pc s), rfl, keyAsked_sent s, ?_⟩
  · exact (congrArg BitVec.toNat (getV_setV_self _ x _)).trans (toNat_keyByte k)
  · exact ((only_keyAsked_setPhase s .between).mono (by simp)).then (only_setV_advance _ x _) (by simp)

/-- Settles O42: the step is the request, on the first poll alone, and the mark of the wait. -/
theorem waitKeyHoldsTheCore : Obligations.WaitKeyHoldsTheCore := fun _ s hk =>
  ⟨_, exec_opFX0A_of_pending hk, rfl, keyAsked_sent s, only_keyAsked_setPhase s .keyWait⟩

/-! ### The wait ended by quit (R155) -/

theorem keyQuit_pc (x : Reg) (s : State) :
    (keyQuit x s).pc = if s.inputs.quitPcNext then s.pc + 2 else s.pc := by
  simp [keyQuit, State.advance, apply_ite State.pc]

theorem keyQuit_DT (x : Reg) (s : State) :
    (keyQuit x s).DT = if s.inputs.quitTickDT then tick s.DT else s.DT := by
  simp [keyQuit, State.advance, apply_ite State.DT]

theorem keyQuit_ST (x : Reg) (s : State) :
    (keyQuit x s).ST = if s.inputs.quitTickST then tick s.ST else s.ST := by
  simp [keyQuit, State.advance, apply_ite State.ST]

/-- Both values of the free choice lie within the bounds for `pc`. -/
theorem keyQuit_pc_bounds (x : Reg) (s : State) : (keyQuit x s).pc = s.pc ∨ (keyQuit x s).pc = s.pc + 2 := by
  rw [keyQuit_pc]
  split
  · exact .inr rfl
  · exact .inl rfl

/-- A timer that may have taken one decrement is as before or one lower, and not below 0 (10_state R33). -/
theorem ite_tick_bounds (c : Bool) (b : Byte) :
    (if c then tick b else b) = b ∨ (if c then tick b else b).toNat = b.toNat - 1 := by
  split
  · exact .inr (toNat_tick b)
  · exact .inl rfl

/-- Settles O43: each of the free choices lies within its bounds, and the log is that of a wait begun once. -/
theorem quitEndsTheKeyWait : Obligations.QuitEndsTheKeyWait := by
  intro x s hk
  have hquit := only_keyQuit x (keyAsked s)
  have hsent : (keyQuit x (keyAsked s)).sent = (keyAsked s).sent := hquit.same (p := .sent) (by simp)
  refine ⟨_, exec_opFX0A_of_quit hk, rfl, rfl, ?_, ?_, ?_, hsent.trans (keyAsked_sent s), ?_⟩
  · simpa only [keyAsked_pc] using keyQuit_pc_bounds x (keyAsked s)
  · simpa only [keyQuit_DT, keyAsked_DT] using ite_tick_bounds _ s.DT
  · simpa only [keyQuit_ST, keyAsked_ST] using ite_tick_bounds _ s.ST
  · exact ((only_keyAsked s).mono (by simp)).then hquit (by simp)

/-! ### Timers (R157 to R159) -/

/-- Settles O44: each execute step is one write, of a register or of a timer, and `next`. -/
theorem timerInstructionsCopy : Obligations.TimerInstructionsCopy := fun x s =>
  ⟨exists_next_of_exec_setV_advance rfl,
   ⟨(s.setDT (s.getV x)).advance, rfl, rfl, rfl, exec_only (i := .opFX15 x) rfl⟩,
   ⟨(s.setST (s.getV x)).advance, rfl, rfl, rfl, exec_only (i := .opFX18 x) rfl⟩⟩

end Sys2Proof.Machine
end

section
/-! Proofs of the exceptions and reset families: the faults an execute step may raise and their precision, the fault record
along a step, the reach of the environment's answers, that every step answers, and what the host does
(spec/60_exceptions.md R165 to R179, spec/70_reset_and_hazards.md R190 to R195). -/

namespace Sys2Proof.Machine

variable {l : List Part} {s t : State} {i : Instr} {w w' : Word} {image : List Byte}

/-! ### What an execute step raises (60_exceptions R165) -/

/-- The conditions that execute steps can raise, each with its instructions (60_exceptions R165, conflict C13). -/
inductive CanRaise : Instr → Condition → Prop
  | ret : CanRaise .op00EE .stackUnderflow
  | call (nnn : Addr) : CanRaise (.op2NNN nnn) .stackOverflow
  | draw (x y : Reg) (n : Nibble) : CanRaise (.opDXYN x y n) .memoryBounds
  | storeDigits (x : Reg) : CanRaise (.opFX33 x) .memoryBounds
  | storeRegs (x : Reg) : CanRaise (.opFX55 x) .memoryBounds
  | loadRegs (x : Reg) : CanRaise (.opFX65 x) .memoryBounds

/-- No fault is raised between `s` and `t`: the record stands, and the run state does, unless the core has halted. -/
def RaisesNothing (s t : State) : Prop :=
  Same s t .faultRecord ∧ (t.runState = s.runState ∨ t.runState = .halted)

theorem Only.raisesNothing (h : Only l s t) (hrecord : .faultRecord ∉ l) (hrun : .runState ∉ l) : RaisesNothing s t :=
  ⟨h.same hrecord, .inl (h.same hrun)⟩

theorem RaisesNothing.advance (h : RaisesNothing s t) : RaisesNothing s t.advance := h

/-- What an execute step can do to the fault record: nothing, or fault entry with the instruction's own word, and that only
in the six instructions that can raise something (60_exceptions R165, R170). -/
theorem exec_fault_cases (h : exec i s = .next t) :
    RaisesNothing s t ∨ ∃ c, CanRaise i c ∧ t = raise c (encode i) s := by
  cases i with
  | op00EE =>
    simp only [exec, exec00EE] at h
    split at h <;> obtain rfl := Host.Outcome.next.inj h
    · obtain ⟨-, -, -, -, ho⟩ := pop_eq_some ‹_›
      exact .inl (ho.raisesNothing (by simp) (by simp))
    · exact .inr ⟨_, .ret, rfl⟩
  | op2NNN nnn =>
    simp only [exec, exec2NNN] at h
    split at h <;> obtain rfl := Host.Outcome.next.inj h
    · obtain ⟨k, -, -, -, -, ho⟩ := push_eq_some ‹_›
      exact .inl (ho.raisesNothing (by simp) (by simp))
    · exact .inr ⟨_, .call nnn, rfl⟩
  | opDXYN x y n =>
    have hsent := (only_spriteSent x y n s).raisesNothing (by simp) (by simp)
    simp only [exec, execDXYN] at h
    split at h
    · split at h <;> obtain rfl := Host.Outcome.next.inj h <;> exact .inl hsent
    · obtain rfl := Host.Outcome.next.inj h
      exact .inr ⟨_, .draw x y n, rfl⟩
  | opFX0A x =>
    have hrecord : Same s t .faultRecord := (exec_only h).same (by simp [mayChange])
    have hrun : (keyAsked s).runState = s.runState := (only_keyAsked s).same (p := .runState) (by simp)
    simp only [exec, execFX0A] at h
    split at h <;> obtain rfl := Host.Outcome.next.inj h
    · exact .inl ⟨hrecord, .inl hrun⟩
    · exact .inl ⟨hrecord, .inl hrun⟩
    · exact .inl ⟨hrecord, .inr rfl⟩
  | opFX33 | opFX55 =>
    simp only [exec, execFX33, execFX55] at h
    split at h <;> obtain rfl := Host.Outcome.next.inj h
    · exact .inl ((only_writeBlock s _).raisesNothing (by simp [blockParts]) (by simp [blockParts])).advance
    · exact .inr ⟨.memoryBounds, by constructor, rfl⟩
  | opFX65 x =>
    simp only [exec, execFX65] at h
    split at h <;> obtain rfl := Host.Outcome.next.inj h
    · exact .inl ((only_loadRegs s x).raisesNothing (by simp [regParts]) (by simp [regParts])).advance
    · exact .inr ⟨_, .loadRegs x, rfl⟩
  | _ => exact .inl ((exec_only h).raisesNothing (by simp [mayChange]) (by simp [mayChange]))

/-! ### The fault record agrees with the run state (60_exceptions R165, R170, R174) -/

/-- No condition has the code that means "no fault" (60_exceptions R165). -/
theorem code_ne_zero (c : Condition) : c.code ≠ 0 := by cases c <;> decide

/-- Fault entry makes record and run state agree, whatever they were. -/
theorem raise_faultRecordAgrees (c : Condition) (w : Word) (s : State) : (raise c w s).faultRecordAgrees :=
  iff_of_true rfl (code_ne_zero c)

theorem faultRecordAgrees_of_no_fault (hrun : s.runState ≠ .faulted) (hcode : s.faultCode = 0) : s.faultRecordAgrees :=
  iff_of_false hrun (not_not_intro hcode)

/-- A core that is not `Faulted` has the code of no fault. -/
theorem State.faultRecordAgrees.faultCode_eq_zero (hs : s.faultRecordAgrees) (hrun : s.runState ≠ .faulted) :
    s.faultCode = 0 :=
  not_not.mp fun hcode => hrun (hs.mpr hcode)

/-- The agreement is one of the run state and the code alone. -/
theorem State.faultRecordAgrees.congr (hs : s.faultRecordAgrees) (hrun : t.runState = s.runState)
    (hcode : t.faultCode = s.faultCode) : t.faultRecordAgrees := by
  unfold State.faultRecordAgrees
  rw [hrun, hcode]
  exact hs

theorem exec_keeps_faultRecordAgrees (hr : s.runState = .running) (hs : s.faultRecordAgrees) (h : exec i s = .next t) :
    t.faultRecordAgrees := by
  obtain ⟨⟨hcode, -, -⟩, hrun⟩ | ⟨c, -, rfl⟩ := exec_fault_cases h
  · have hzero : t.faultCode = 0 := hcode.trans (hs.faultCode_eq_zero (by simp [hr]))
    refine faultRecordAgrees_of_no_fault ?_ hzero
    obtain hsame | hhalted := hrun
    · simp [hsame, hr]
    · simp [hhalted]
  · exact raise_faultRecordAgrees c _ s

theorem cycle_keeps_faultRecordAgrees (hr : s.runState = .running) (hs : s.faultRecordAgrees) (h : cycle s = .next t) :
    t.faultRecordAgrees := by
  obtain ⟨-, rfl⟩ | ⟨-, c, -, rfl⟩ | ⟨-, -, w', -, -, rfl⟩ | ⟨-, -, i, u, -, -, hu, rfl⟩ := cycle_cases h
  · exact faultRecordAgrees_of_no_fault (by simp) (hs.faultCode_eq_zero (by simp [hr]))
  · exact raise_faultRecordAgrees c 0 s
  · exact raise_faultRecordAgrees .unimplementedOpcode w' s
  · obtain ⟨hcode, -, -⟩ := (only_finish u).same (p := .faultRecord) (by simp)
    exact (exec_keeps_faultRecordAgrees hr hs hu).congr ((only_finish u).same (p := .runState) (by simp)) hcode

theorem hostReset_faultRecordAgrees (s : State) : s.hostReset.faultRecordAgrees :=
  faultRecordAgrees_of_no_fault nofun rfl

/-- No host act raises a fault: a load leaves run state and record alone, and `Run` starts a core that is not `Faulted`. -/
theorem idleAct_keeps_faultRecordAgrees (act : HostAct) (hr : s.runState = .idle) (hs : s.faultRecordAgrees) :
    (s.idleAct act).faultRecordAgrees := by
  cases act with
  | none => exact hs
  | reset => exact hostReset_faultRecordAgrees s
  | load image =>
    simp only [State.idleAct, State.hostLoad]
    split <;> exact hs
  | run => exact faultRecordAgrees_of_no_fault (by simp [State.idleAct]) (hs.faultCode_eq_zero (by simp [hr]))

/-- Settles O54, by what a step can be: a reset, a host act, a cycle, or a stopped core that holds its state. A core is halted
only while it runs, so with no code in the record; `halt` of any other state need not keep the agreement, so the step is
taken apart here and not by `KeptByPieces`. -/
theorem stepKeepsFaultRecordAgrees : Obligations.StepKeepsFaultRecordAgrees := by
  intro s t hs h
  obtain ⟨-, ⟨-, rfl⟩ | ⟨-, hr, rfl⟩ | ⟨-, hr, hc⟩ | ⟨-, -, rfl⟩⟩ := step_cases h
  · exact hostReset_faultRecordAgrees s
  · exact idleAct_keeps_faultRecordAgrees _ hr hs
  · exact cycle_keeps_faultRecordAgrees hr hs hc
  · exact hs

/-! ### Execute faults are precise, and 28 instructions have none (60_exceptions R165, R170) -/

/-- Settles O45: a running core that has become `Faulted` went through fault entry. -/
theorem executeFaultsArePrecise : Obligations.ExecuteFaultsArePrecise := by
  intro i s t hr h hfaulted
  obtain ⟨-, hrun⟩ | ⟨c, hc, rfl⟩ := exec_fault_cases h
  · simp [hfaulted, hr] at hrun
  · refine ⟨c, ?_, faultedFrom_raise c _ s⟩
    cases hc <;> simp

/-- Settles O46: an execute step answers, and fault entry is left to the six instructions that can raise something. -/
theorem twentyEightInstructionsNeverFault : Obligations.TwentyEightInstructionsNeverFault := by
  intro i s hret hcall hdraw hdigits hstore hload
  obtain ⟨t, ht⟩ := exec_isNext i s
  obtain hnothing | ⟨c, hc, -⟩ := exec_fault_cases ht
  · exact ⟨t, ht, hnothing⟩
  · cases hc with
    | ret => exact absurd rfl hret
    | call nnn => exact absurd rfl (hcall nnn)
    | draw x y n => exact absurd rfl (hdraw x y n)
    | storeDigits x => exact absurd rfl (hdigits x)
    | storeRegs x => exact absurd rfl (hstore x)
    | loadRegs x => exact absurd rfl (hload x)

/-! ### The environment's answers reach five instructions (60_exceptions R175 to R179) -/

/-- `s` with other answers of the environment. -/
def State.withInputs (s : State) (a : Inputs) : State := { s with inputs := a }

theorem push_withInputs (s : State) (a : Inputs) (v : Word) :
    (s.withInputs a).push v = (s.push v).map (·.withInputs a) := by
  refine Eq.symm ?_
  unfold State.push
  exact apply_dite (Option.map fun u : State => u.withInputs a) _ _ _

theorem pop_withInputs (s : State) (a : Inputs) :
    (s.withInputs a).pop = s.pop.map fun r => (r.1, r.2.withInputs a) := by
  refine Eq.symm ?_
  unfold State.pop
  exact apply_dite (Option.map fun r : Word × State => (r.1, r.2.withInputs a)) _ _ _

/-- Settles O50, by the kinds of the other instructions: a call and a return, whose stack does not look at the inputs; those
that choose between two states by a test that does not; and those that make one update. -/
theorem answersReachFiveInstructions : Obligations.AnswersReachFiveInstructions := by
  intro i s t a hrandom hdraw hskip hskipNot hwait h
  change exec i (s.withInputs a) = .next (t.withInputs a)
  cases i with
  | opCXNN x nn => exact absurd rfl (hrandom x nn)
  | opDXYN x y n => exact absurd rfl (hdraw x y n)
  | opEX9E x => exact absurd rfl (hskip x)
  | opEXA1 x => exact absurd rfl (hskipNot x)
  | opFX0A x => exact absurd rfl (hwait x)
  | op00EE =>
    have hpop := pop_withInputs s a
    cases hs : s.pop with
    | none =>
      obtain rfl := Host.Outcome.next.inj ((exec_op00EE_of_pop_none hs).symm.trans h)
      exact exec_op00EE_of_pop_none (hpop.trans (by rw [hs]; rfl))
    | some r =>
      obtain rfl := Host.Outcome.next.inj ((exec_op00EE_of_pop hs).symm.trans h)
      exact exec_op00EE_of_pop (hpop.trans (by rw [hs]; rfl))
  | op2NNN nnn =>
    have hpush := push_withInputs s a (s.pc + 2)
    cases hs : s.push (s.pc + 2) with
    | none =>
      obtain rfl := Host.Outcome.next.inj ((exec_op2NNN_of_push_none nnn hs).symm.trans h)
      exact exec_op2NNN_of_push_none nnn (hpush.trans (by rw [hs]; rfl))
    | some u =>
      obtain rfl := Host.Outcome.next.inj ((exec_op2NNN_of_push nnn hs).symm.trans h)
      exact exec_op2NNN_of_push nnn (hpush.trans (by rw [hs]; rfl))
  | op3XNN | op4XNN | op5XY0 | op9XY0 | opFX33 | opFX55 | opFX65 =>
    obtain rfl := Host.Outcome.next.inj h
    refine congrArg Host.Outcome.next (Eq.symm ?_)
    exact apply_ite (fun u : State => u.withInputs a) _ _ _
  | _ =>
    obtain rfl := Host.Outcome.next.inj h
    rfl

/-! ### An unimplemented word (60_exceptions R166) -/

/-- A word that does not decode is the whole cycle: fault entry with that word recorded (60_exceptions R170, R173). -/
theorem step_of_unimplemented (hc : s.cycles) (hq : quitSeen s = false) (hf : fetch s = .word w)
    (hd : decode s.params.strictLowNibble w = .unimplementedOpcode w') :
    step s = .next (raise .unimplementedOpcode w' s).redraw := by
  rw [step_of_cycles hc]
  simp [cycle, hq, hf, hd]

/-- Settles O9: the step is fault entry. -/
theorem unimplementedWordFaults : Obligations.UnimplementedWordFaults := fun s w hc hq hf hd =>
  ⟨_, faultedFrom_raise _ w s, step_of_unimplemented hc hq hf hd⟩

/-! ### Every step answers (60_exceptions R170) -/

/-- A reset acts in every run state (70_reset_and_hazards R190). -/
theorem step_of_reset (hw : s.params.wf = true) (hh : s.inputs.host = .reset) : step s = .next s.hostReset.redraw := by
  simp [step, machineStep, hw, hh]

/-- Each way a cycle goes ends in a next state. -/
theorem step_isNext_of_cycles (hc : s.cycles) : ∃ t, step s = .next t := by
  cases hq : quitSeen s with
  | true => exact ⟨_, by rw [step_of_cycles hc, cycle_of_quitSeen hq]⟩
  | false =>
    cases hf : fetch s with
    | fail c => exact ⟨_, step_of_fetch_fail hc hq hf⟩
    | word w =>
      cases hd : decode s.params.strictLowNibble w with
      | unimplementedOpcode w' => exact ⟨_, step_of_unimplemented hc hq hf hd⟩
      | instr i =>
        obtain ⟨u, hu⟩ := exec_isNext i s
        exact ⟨_, step_of_decodedAt hc hq (decodedAt_eq_some_iff.mpr ⟨w, hf, hd⟩) hu⟩

theorem step_isNext (hw : s.params.wf = true) : ∃ t, step s = .next t := by
  by_cases hh : s.inputs.host = .reset
  · exact ⟨_, step_of_reset hw hh⟩
  cases hr : s.runState with
  | idle => exact ⟨_, step_of_idle hw hh hr⟩
  | running => exact step_isNext_of_cycles ⟨hw, hr, hh⟩
  | halted => exact ⟨_, step_of_stopped hw hh (.inl hr)⟩
  | faulted => exact ⟨_, step_of_stopped hw hh (.inr hr)⟩

theorem cycle_params (h : cycle s = .next t) : t.params = s.params := by
  obtain ⟨-, rfl⟩ | ⟨-, c, -, rfl⟩ | ⟨-, -, w', -, -, rfl⟩ | ⟨-, -, i, u, -, -, hu, rfl⟩ := cycle_cases h
  case inr.inr.inr =>
    have hfinish : (finish u).params = u.params := (only_finish u).same (p := .params) (by simp)
    exact hfinish.trans (exec_params hu)
  all_goals rfl

theorem idleAct_params (s : State) (act : HostAct) : (s.idleAct act).params = s.params := by
  cases act with
  | load image =>
    simp only [State.idleAct, State.hostLoad]
    split <;> rfl
  | none | reset | run => rfl

theorem step_params (h : step s = .next t) : t.params = s.params := by
  obtain ⟨-, ⟨-, rfl⟩ | ⟨-, -, rfl⟩ | ⟨-, -, hc⟩ | ⟨-, -, rfl⟩⟩ := step_cases h
  · rfl
  · exact idleAct_params s _
  · exact cycle_params hc
  · rfl

/-- Settles O51: legal parameters are all that a step asks for, and no piece of it writes them. -/
theorem everyStepAnswers : Obligations.EveryStepAnswers := by
  intro s hw
  obtain ⟨t, ht⟩ := step_isNext hw
  exact ⟨t, ht, step_params ht⟩

/-! ### The host's acts: reset, `Run` and load (70_reset_and_hazards R190, R192, R195) -/

/-- The reset input leaves the reset state but for the draw counter, which goes on (log 4). -/
theorem only_hostReset (s : State) : Only [.draws] (State.resetWith s.params) s.hostReset := by
  intro p hp
  cases p <;> simp_all [Same, State.hostReset, State.getV, State.readByte]

/-- Settles O2: the step is the reset and the redraw. -/
theorem resetInputRestoresTheResetState : Obligations.ResetInputRestoresTheResetState := fun s hw hh =>
  ⟨_, step_of_reset hw hh, ((only_hostReset s).mono (by simp)).trans (only_redraw _)⟩

theorem only_hostRun (s : State) : Only [.pc, .runState] s s.hostRun := by
  intro p hp
  cases p <;> simp_all [Same]

/-- Settles O3: the step is `Run` and the redraw. -/
theorem runStartsAtProgramBase : Obligations.RunStartsAtProgramBase := by
  intro s hw hr hh
  have hstep : step s = .next s.hostRun.redraw := by rw [step_of_idle hw (by simp [hh]) hr, hh]; rfl
  exact ⟨_, hstep, rfl, rfl, (only_hostRun s).append (only_redraw _)⟩

theorem hostLoad_of_fits (h : image.length ≤ s.params.memSize - 512) : s.hostLoad image = s.writeBytes 512 image := by
  rw [State.hostLoad, progBase_toNat, if_pos h]

theorem hostLoad_of_too_long (h : s.params.memSize - 512 < image.length) : s.hostLoad image = s.send .loadError := by
  rw [State.hostLoad, progBase_toNat, if_neg (Nat.not_le.mpr h)]

/-- Settles O4: an image that fits is one write at 0x200; one that does not is one entry of the log. -/
theorem loadCopiesTheImage : Obligations.LoadCopiesTheImage := by
  intro s image hw hr hh
  have hstep : step s = .next (s.hostLoad image).redraw := by rw [step_of_idle hw (by simp [hh]) hr, hh]; rfl
  refine ⟨_, hstep, fun hfits => ?_, fun hlong => ?_⟩
  · rw [hostLoad_of_fits hfits]
    refine ⟨fun k hk => readByte_writeBytes_inside s 512 image k hk, ?_⟩
    exact ((only_writeBytes s 512 image).mono (by simp)).then (only_redraw _) (by simp)
  · rw [hostLoad_of_too_long hlong]
    exact ⟨rfl, ((only_send s .loadError).mono (by simp)).then (only_redraw _) (by simp)⟩

end Sys2Proof.Machine
end
